-- ==== Sys2Proof/Word.lean ====
section
/-! DEFINITION. The machine's data types: bytes, words, addresses, register numbers, the keypad
snapshot and the framebuffer (00_scope.md R6 "Fixed sizes", 10_state.md R10 to R20). -/

namespace Sys2Proof

/-- An 8-bit register or memory byte (R10, R30). -/
abbrev Byte := BitVec 8

/-- A 16-bit quantity: PC, I, a stack entry, an opcode (R12, R13, R14, R20). -/
abbrev Word := BitVec 16

/-- A byte address of the 4096-byte memory (R30). -/
abbrev Addr := BitVec 12

/-- A 4-bit field of an opcode that takes no part in selecting the instruction (R57). -/
abbrev Nibble := BitVec 4

/-- The number of a general register, 0 to 15 (R10). -/
abbrev Reg := Fin 16

/-- The flag register VF is V[15] (R11). -/
abbrev regF : Reg := 15

/-- The keypad snapshot: 16 Booleans, true = pressed (R18). -/
abbrev Keypad := Vector Bool 16

/-- The framebuffer: 32 rows, top first, of 64 pixels, leftmost first, true = on (R19). -/
abbrev Framebuffer := Vector (Vector Bool 64) 32

end Sys2Proof
end

