-- ==== Sys2Proof/Config.lean ====
section
/-! DEFINITION. The parameters of the machine (00_scope.md R6) and the free values standing for those
the spec leaves OPEN (92_eei_decisions.md, "Parameters left OPEN"). The opaque constants have no
body: a claim that holds of the model holds whatever they are. -/

namespace Sys2Proof

/-- The configuration, "consumed at startup, immutable thereafter" (R6, R23). -/
structure Params where
  /-- `Q_VF_RESET`: OR, AND, XOR write VF <- 0 afterwards. -/
  qVfReset : Bool
  /-- `Q_SHIFT_COPY`: SHR, SHL shift a copy of Vy. -/
  qShiftCopy : Bool
  /-- `Q_JUMP_V0`: Bnnn jumps to V0 + nnn, else to V[x] + kk. -/
  qJumpV0 : Bool
  /-- `Q_MEM_INC`: Fx55, Fx65 add x + 1 to I. -/
  qMemInc : Bool
  /-- `SPRITE_CLIP`: pixels past the edge are skipped, else they wrap. -/
  spriteClip : Bool
  /-- `STRICT_DECODE`: an unmapped word faults, else it is a no-op. -/
  strictDecode : Bool
  /-- `IPT`: cycles between two ticks. -/
  ipt : Nat
  deriving DecidableEq, Repr

/-- `Q_VF_RESET`, OPEN (D17; log 2). -/
opaque Config.qVfReset : Bool

/-- `Q_SHIFT_COPY`, OPEN (D17; log 2). -/
opaque Config.qShiftCopy : Bool

/-- `Q_JUMP_V0`, OPEN (D17; log 2). -/
opaque Config.qJumpV0 : Bool

/-- `Q_MEM_INC`, OPEN (D17; log 2). -/
opaque Config.qMemInc : Bool

/-- `IPT`, OPEN (D14; log 2). -/
opaque Config.ipt : Nat

/-- The byte of the stream `rand` at a position, OPEN (R111, D16; log 4). -/
opaque Config.rand : Nat → Byte

/-- The key sample of the t-th tick, OPEN (R162, U17; log 5). -/
opaque Config.keys : Nat → Keypad

end Sys2Proof
end

