-- ==== Sys2Proof/Syntax.lean ====
section
/-! DEFINITION. The instructions, one constructor per row of spec/opcode_table.json (30_encoding.md
R56). Operands stand in the order of the opcode's bits. A row's ignored bits (R57) are kept in an
operand `g` that no instruction's effect depends on: the fault record holds the whole 16-bit opcode
(R21), and nothing of a word is lost in decoding (log 14). -/

namespace Sys2Proof

/-- An instruction. -/
inductive Instr where
  /-- 00E0, row 1: `CLS`; `g` is bits 11:4, ignored. -/
  | cls (g : Byte)
  /-- 00EE, row 2: `RET`; `g` is bits 11:4, ignored. -/
  | ret (g : Byte)
  /-- 1nnn, row 3: `JP nnn`. -/
  | jp (nnn : Addr)
  /-- 2nnn, row 4: `CALL nnn`. -/
  | call (nnn : Addr)
  /-- 3xkk, row 5: `SE Vx, kk`. -/
  | seByte (x : Reg) (kk : Byte)
  /-- 4xkk, row 6: `SNE Vx, kk`. -/
  | sneByte (x : Reg) (kk : Byte)
  /-- 5xy0, row 7: `SE Vx, Vy`; `g` is bits 3:0, ignored. -/
  | seReg (x y : Reg) (g : Nibble)
  /-- 6xkk, row 8: `LD Vx, kk`. -/
  | ldByte (x : Reg) (kk : Byte)
  /-- 7xkk, row 9: `ADD Vx, kk`. -/
  | addByte (x : Reg) (kk : Byte)
  /-- 8xy0, row 10: `LD Vx, Vy`. -/
  | ldReg (x y : Reg)
  /-- 8xy1, row 11: `OR Vx, Vy`. -/
  | orReg (x y : Reg)
  /-- 8xy2, row 12: `AND Vx, Vy`. -/
  | andReg (x y : Reg)
  /-- 8xy3, row 13: `XOR Vx, Vy`. -/
  | xorReg (x y : Reg)
  /-- 8xy4, row 14: `ADD Vx, Vy`. -/
  | addReg (x y : Reg)
  /-- 8xy5, row 15: `SUB Vx, Vy`. -/
  | subReg (x y : Reg)
  /-- 8xy6, row 16: `SHR Vx, Vy`. -/
  | shrReg (x y : Reg)
  /-- 8xy7, row 17: `SUBN Vx, Vy`. -/
  | subnReg (x y : Reg)
  /-- 8xyE, row 18: `SHL Vx, Vy`. -/
  | shlReg (x y : Reg)
  /-- 9xy0, row 19: `SNE Vx, Vy`; `g` is bits 3:0, ignored. -/
  | sneReg (x y : Reg) (g : Nibble)
  /-- Annn, row 20: `LD I, nnn`. -/
  | ldI (nnn : Addr)
  /-- Bnnn, row 21: `JP V0, nnn`; also read as x = nnn[11:8] and kk = nnn[7:0]. -/
  | jpV0 (nnn : Addr)
  /-- Cxkk, row 22: `RND Vx, kk`. -/
  | rnd (x : Reg) (kk : Byte)
  /-- Dxyn, row 23: `DRW Vx, Vy, n`; `n` is a row count 0 to 15. -/
  | drw (x y : Reg) (n : Fin 16)
  /-- Ex9E, row 24: `SKP Vx`; `g` is bits 7:4, ignored. -/
  | skp (x : Reg) (g : Nibble)
  /-- ExA1, row 25: `SKNP Vx`; `g` is bits 7:4, ignored. -/
  | sknp (x : Reg) (g : Nibble)
  /-- Fx07, row 26: `LD Vx, DT`. -/
  | ldVxDt (x : Reg)
  /-- Fx0A, row 27: `LD Vx, K`. -/
  | ldVxK (x : Reg)
  /-- Fx15, row 28: `LD DT, Vx`. -/
  | ldDtVx (x : Reg)
  /-- Fx18, row 29: `LD ST, Vx`. -/
  | ldStVx (x : Reg)
  /-- Fx1E, row 30: `ADD I, Vx`. -/
  | addI (x : Reg)
  /-- Fx29, row 31: `LD F, Vx`. -/
  | ldF (x : Reg)
  /-- Fx33, row 32: `LD B, Vx`. -/
  | ldB (x : Reg)
  /-- Fx55, row 33: `LD [I], Vx`. -/
  | store (x : Reg)
  /-- Fx65, row 34: `LD Vx, [I]`. -/
  | load (x : Reg)
  /-- Row 35: any word that selects no other row (R58); `w` is the word. -/
  | nop (w : Word)
  deriving DecidableEq, Repr

end Sys2Proof
end

