-- ==== Sys2Proof/WellFormed.lean ====
section
/-! DEFINITION. Which terms of `Instr` stand for an instruction word. The operand types carry every
field's range; what remains is that the unmapped row holds an unmapped word (30_encoding.md R58). -/

namespace Sys2Proof

/-- The unmapped words, as R58 lists them: 0hhk, 8xyk, Exhk by their low nibble, Fxkk by its low byte. -/
def unmappedWord (w : Word) : Bool :=
  let op := w.toNat / 4096
  let k := w.toNat % 16
  let kk := w.toNat % 256
  if op = 0x0 then !(k == 0x0 || k == 0xE)
  else if op = 0x8 then [0x8, 0x9, 0xA, 0xB, 0xC, 0xD, 0xF].contains k
  else if op = 0xE then !(k == 0x1 || k == 0xE)
  else if op = 0xF then !([0x07, 0x0A, 0x15, 0x18, 0x1E, 0x29, 0x33, 0x55, 0x65].contains kk)
  else false

/-- An instruction that some word stands for: every term but a `nop` holding a mapped word. -/
def Instr.wf : Instr → Bool
  | .nop w => unmappedWord w
  | .cls _ | .ret _ | .jp _ | .call _ | .seByte _ _ | .sneByte _ _ | .seReg _ _ _ | .ldByte _ _
  | .addByte _ _ | .ldReg _ _ | .orReg _ _ | .andReg _ _ | .xorReg _ _ | .addReg _ _ | .subReg _ _
  | .shrReg _ _ | .subnReg _ _ | .shlReg _ _ | .sneReg _ _ _ | .ldI _ | .jpV0 _ | .rnd _ _
  | .drw _ _ _ | .skp _ _ | .sknp _ _ | .ldVxDt _ | .ldVxK _ | .ldDtVx _ | .ldStVx _ | .addI _
  | .ldF _ | .ldB _ | .store _ | .load _ => true

end Sys2Proof
end

