-- ==== Sys2Proof/Decode.lean ====
section
/-! DEFINITION. The decoder (30_encoding.md R50 to R58), total on words and on byte sequences, then the
encoder, then the opcode map of R56 as masks and patterns. -/

namespace Sys2Proof

/-! ## Bit fields -/

/-- `w[hi:lo]`, the unsigned value of bits hi down to lo (R7). -/
def bits (w : Word) (hi lo : Nat) : Nat := w.toNat / 2 ^ lo % 2 ^ (hi + 1 - lo)

/-- The register of an index, 0 to 15. -/
def regOf (k : Nat) : Reg := Fin.ofNat 16 k

/-- `x`, the first register index, `opcode[11:8]` (R52). -/
def fieldX (w : Word) : Reg := regOf (bits w 11 8)

/-- `y`, the second register index, `opcode[7:4]` (R52). -/
def fieldY (w : Word) : Reg := regOf (bits w 7 4)

/-- `n`, the lowest nibble as a row count, `opcode[3:0]` (R52). -/
def fieldN (w : Word) : Fin 16 := Fin.ofNat 16 (bits w 3 0)

/-- `kk`, the immediate byte, `opcode[7:0]` (R52). -/
def fieldKK (w : Word) : Byte := BitVec.ofNat 8 (bits w 7 0)

/-- `nnn`, the address, `opcode[11:0]` (R52). -/
def fieldNNN (w : Word) : Addr := BitVec.ofNat 12 (bits w 11 0)

/-- The ignored bits 11:4 of family 0 (R57). -/
def ignored11to4 (w : Word) : Byte := BitVec.ofNat 8 (bits w 11 4)

/-- The ignored bits 7:4 of family E (R57). -/
def ignored7to4 (w : Word) : Nibble := BitVec.ofNat 4 (bits w 7 4)

/-- The ignored bits 3:0 of families 5 and 9 (R57). -/
def ignored3to0 (w : Word) : Nibble := BitVec.ofNat 4 (bits w 3 0)

/-! ## The decoder -/

/-- Family 0, keyed on the lowest nibble (R54). -/
def decodeFamily0 (w : Word) : Instr :=
  match bits w 3 0 with
  | 0x0 => .cls (ignored11to4 w)
  | 0xE => .ret (ignored11to4 w)
  | _ => .nop w

/-- Family 8, keyed on the lowest nibble (R54, R114). -/
def decodeFamily8 (w : Word) : Instr :=
  match bits w 3 0 with
  | 0x0 => .ldReg (fieldX w) (fieldY w)
  | 0x1 => .orReg (fieldX w) (fieldY w)
  | 0x2 => .andReg (fieldX w) (fieldY w)
  | 0x3 => .xorReg (fieldX w) (fieldY w)
  | 0x4 => .addReg (fieldX w) (fieldY w)
  | 0x5 => .subReg (fieldX w) (fieldY w)
  | 0x6 => .shrReg (fieldX w) (fieldY w)
  | 0x7 => .subnReg (fieldX w) (fieldY w)
  | 0xE => .shlReg (fieldX w) (fieldY w)
  | _ => .nop w

/-- Family E, keyed on the lowest nibble (R54). -/
def decodeFamilyE (w : Word) : Instr :=
  match bits w 3 0 with
  | 0xE => .skp (fieldX w) (ignored7to4 w)
  | 0x1 => .sknp (fieldX w) (ignored7to4 w)
  | _ => .nop w

/-- Family F, keyed on the lowest byte (R54). -/
def decodeFamilyF (w : Word) : Instr :=
  match bits w 7 0 with
  | 0x07 => .ldVxDt (fieldX w)
  | 0x0A => .ldVxK (fieldX w)
  | 0x15 => .ldDtVx (fieldX w)
  | 0x18 => .ldStVx (fieldX w)
  | 0x1E => .addI (fieldX w)
  | 0x29 => .ldF (fieldX w)
  | 0x33 => .ldB (fieldX w)
  | 0x55 => .store (fieldX w)
  | 0x65 => .load (fieldX w)
  | _ => .nop w

/-- The instruction a word selects: primary dispatch on the leading nibble (R53). "Decoding never
fails" (R54): every word selects one. The last arm is family F, the sixteenth value of a nibble. -/
def decode (w : Word) : Instr :=
  match bits w 15 12 with
  | 0x0 => decodeFamily0 w
  | 0x1 => .jp (fieldNNN w)
  | 0x2 => .call (fieldNNN w)
  | 0x3 => .seByte (fieldX w) (fieldKK w)
  | 0x4 => .sneByte (fieldX w) (fieldKK w)
  | 0x5 => .seReg (fieldX w) (fieldY w) (ignored3to0 w)
  | 0x6 => .ldByte (fieldX w) (fieldKK w)
  | 0x7 => .addByte (fieldX w) (fieldKK w)
  | 0x8 => decodeFamily8 w
  | 0x9 => .sneReg (fieldX w) (fieldY w) (ignored3to0 w)
  | 0xA => .ldI (fieldNNN w)
  | 0xB => .jpV0 (fieldNNN w)
  | 0xC => .rnd (fieldX w) (fieldKK w)
  | 0xD => .drw (fieldX w) (fieldY w) (fieldN w)
  | 0xE => decodeFamilyE w
  | _ => decodeFamilyF w

/-- Why a byte sequence holds no instruction. -/
inductive DecodeError where
  /-- Fewer than the two bytes every instruction has (R50). -/
  | truncated
  deriving DecidableEq, Repr

/-- Two bytes as a word, the byte at the lower address in bits 15:8 (R33). -/
def joinBytes (hi lo : Byte) : Word := BitVec.ofNat 16 (hi.toNat * 256 + lo.toNat)

/-- The byte of a word that stands at the lower address (R33). -/
def highByte (w : Word) : Byte := BitVec.ofNat 8 (bits w 15 8)

/-- The byte of a word that stands at the higher address (R33). -/
def lowByte (w : Word) : Byte := BitVec.ofNat 8 (bits w 7 0)

/-- The first instruction of a byte sequence and the bytes after it. -/
def decodeBytes : List Byte → Except DecodeError (Instr × List Byte)
  | hi :: lo :: rest => .ok (decode (joinBytes hi lo), rest)
  | [_] => .error .truncated
  | [] => .error .truncated

/-- The opcode word of an instruction numbered as spec/opcode_table.json numbers its bits, every bit at
or above nbits being 0 (log 19). -/
def tableWord (nbits w : Nat) : Word := BitVec.ofNat 16 (w % 2 ^ nbits)

/-- What the decoder reads from such an instruction, laid out in memory as the hardware stores it. -/
def decodeTableWord (nbits w : Nat) : Option Instr :=
  match decodeBytes [highByte (tableWord nbits w), lowByte (tableWord nbits w)] with
  | .ok (i, _) => some i
  | .error _ => none

/-! ## The encoder (formats of R51) -/

/-- Format XY, XYN, X, Z: four nibbles, the first in bits 15:12. -/
def ofNibbles (a b c d : Nat) : Word := BitVec.ofNat 16 (a * 4096 + b * 256 + c * 16 + d)

/-- Format XK, and X with its sub-op byte. -/
def ofNibblesByte (op x kk : Nat) : Word := BitVec.ofNat 16 (op * 4096 + x * 256 + kk)

/-- Format A. -/
def ofAddress (op nnn : Nat) : Word := BitVec.ofNat 16 (op * 4096 + nnn)

/-- Format Z: ignored bits 11:4 and the sub-op nibble. -/
def ofIgnored (g k : Nat) : Word := BitVec.ofNat 16 (g * 16 + k)

/-- The word of an instruction. -/
def encode : Instr → Word
  | .cls g => ofIgnored g.toNat 0x0
  | .ret g => ofIgnored g.toNat 0xE
  | .jp nnn => ofAddress 0x1 nnn.toNat
  | .call nnn => ofAddress 0x2 nnn.toNat
  | .seByte x kk => ofNibblesByte 0x3 x.val kk.toNat
  | .sneByte x kk => ofNibblesByte 0x4 x.val kk.toNat
  | .seReg x y g => ofNibbles 0x5 x.val y.val g.toNat
  | .ldByte x kk => ofNibblesByte 0x6 x.val kk.toNat
  | .addByte x kk => ofNibblesByte 0x7 x.val kk.toNat
  | .ldReg x y => ofNibbles 0x8 x.val y.val 0x0
  | .orReg x y => ofNibbles 0x8 x.val y.val 0x1
  | .andReg x y => ofNibbles 0x8 x.val y.val 0x2
  | .xorReg x y => ofNibbles 0x8 x.val y.val 0x3
  | .addReg x y => ofNibbles 0x8 x.val y.val 0x4
  | .subReg x y => ofNibbles 0x8 x.val y.val 0x5
  | .shrReg x y => ofNibbles 0x8 x.val y.val 0x6
  | .subnReg x y => ofNibbles 0x8 x.val y.val 0x7
  | .shlReg x y => ofNibbles 0x8 x.val y.val 0xE
  | .sneReg x y g => ofNibbles 0x9 x.val y.val g.toNat
  | .ldI nnn => ofAddress 0xA nnn.toNat
  | .jpV0 nnn => ofAddress 0xB nnn.toNat
  | .rnd x kk => ofNibblesByte 0xC x.val kk.toNat
  | .drw x y n => ofNibbles 0xD x.val y.val n.val
  | .skp x g => ofNibbles 0xE x.val g.toNat 0xE
  | .sknp x g => ofNibbles 0xE x.val g.toNat 0x1
  | .ldVxDt x => ofNibblesByte 0xF x.val 0x07
  | .ldVxK x => ofNibblesByte 0xF x.val 0x0A
  | .ldDtVx x => ofNibblesByte 0xF x.val 0x15
  | .ldStVx x => ofNibblesByte 0xF x.val 0x18
  | .addI x => ofNibblesByte 0xF x.val 0x1E
  | .ldF x => ofNibblesByte 0xF x.val 0x29
  | .ldB x => ofNibblesByte 0xF x.val 0x33
  | .store x => ofNibblesByte 0xF x.val 0x55
  | .load x => ofNibblesByte 0xF x.val 0x65
  | .nop w => w

/-! ## The opcode map (R56) -/

/-- One row: a word w selects it iff `w AND mask = pattern`. -/
structure OpRow where
  mask : Word
  pattern : Word
  deriving DecidableEq, Repr

/-- The row of an instruction. -/
def Instr.row : Instr → OpRow
  | .cls _ => ⟨0xF00F, 0x0000⟩
  | .ret _ => ⟨0xF00F, 0x000E⟩
  | .jp _ => ⟨0xF000, 0x1000⟩
  | .call _ => ⟨0xF000, 0x2000⟩
  | .seByte _ _ => ⟨0xF000, 0x3000⟩
  | .sneByte _ _ => ⟨0xF000, 0x4000⟩
  | .seReg _ _ _ => ⟨0xF000, 0x5000⟩
  | .ldByte _ _ => ⟨0xF000, 0x6000⟩
  | .addByte _ _ => ⟨0xF000, 0x7000⟩
  | .ldReg _ _ => ⟨0xF00F, 0x8000⟩
  | .orReg _ _ => ⟨0xF00F, 0x8001⟩
  | .andReg _ _ => ⟨0xF00F, 0x8002⟩
  | .xorReg _ _ => ⟨0xF00F, 0x8003⟩
  | .addReg _ _ => ⟨0xF00F, 0x8004⟩
  | .subReg _ _ => ⟨0xF00F, 0x8005⟩
  | .shrReg _ _ => ⟨0xF00F, 0x8006⟩
  | .subnReg _ _ => ⟨0xF00F, 0x8007⟩
  | .shlReg _ _ => ⟨0xF00F, 0x800E⟩
  | .sneReg _ _ _ => ⟨0xF000, 0x9000⟩
  | .ldI _ => ⟨0xF000, 0xA000⟩
  | .jpV0 _ => ⟨0xF000, 0xB000⟩
  | .rnd _ _ => ⟨0xF000, 0xC000⟩
  | .drw _ _ _ => ⟨0xF000, 0xD000⟩
  | .skp _ _ => ⟨0xF00F, 0xE00E⟩
  | .sknp _ _ => ⟨0xF00F, 0xE001⟩
  | .ldVxDt _ => ⟨0xF0FF, 0xF007⟩
  | .ldVxK _ => ⟨0xF0FF, 0xF00A⟩
  | .ldDtVx _ => ⟨0xF0FF, 0xF015⟩
  | .ldStVx _ => ⟨0xF0FF, 0xF018⟩
  | .addI _ => ⟨0xF0FF, 0xF01E⟩
  | .ldF _ => ⟨0xF0FF, 0xF029⟩
  | .ldB _ => ⟨0xF0FF, 0xF033⟩
  | .store _ => ⟨0xF0FF, 0xF055⟩
  | .load _ => ⟨0xF0FF, 0xF065⟩
  | .nop _ => ⟨0x0000, 0x0000⟩

/-- Rows 1 to 9, families 0 to 7. -/
def opRowsLow : List OpRow :=
  [⟨0xF00F, 0x0000⟩, ⟨0xF00F, 0x000E⟩, ⟨0xF000, 0x1000⟩, ⟨0xF000, 0x2000⟩, ⟨0xF000, 0x3000⟩,
   ⟨0xF000, 0x4000⟩, ⟨0xF000, 0x5000⟩, ⟨0xF000, 0x6000⟩, ⟨0xF000, 0x7000⟩]

/-- Rows 10 to 18, family 8. -/
def opRows8 : List OpRow :=
  [⟨0xF00F, 0x8000⟩, ⟨0xF00F, 0x8001⟩, ⟨0xF00F, 0x8002⟩, ⟨0xF00F, 0x8003⟩, ⟨0xF00F, 0x8004⟩,
   ⟨0xF00F, 0x8005⟩, ⟨0xF00F, 0x8006⟩, ⟨0xF00F, 0x8007⟩, ⟨0xF00F, 0x800E⟩]

/-- Rows 19 to 25, families 9 to E. -/
def opRowsMid : List OpRow :=
  [⟨0xF000, 0x9000⟩, ⟨0xF000, 0xA000⟩, ⟨0xF000, 0xB000⟩, ⟨0xF000, 0xC000⟩, ⟨0xF000, 0xD000⟩,
   ⟨0xF00F, 0xE00E⟩, ⟨0xF00F, 0xE001⟩]

/-- Rows 26 to 34, family F. -/
def opRowsF : List OpRow :=
  [⟨0xF0FF, 0xF007⟩, ⟨0xF0FF, 0xF00A⟩, ⟨0xF0FF, 0xF015⟩, ⟨0xF0FF, 0xF018⟩, ⟨0xF0FF, 0xF01E⟩,
   ⟨0xF0FF, 0xF029⟩, ⟨0xF0FF, 0xF033⟩, ⟨0xF0FF, 0xF055⟩, ⟨0xF0FF, 0xF065⟩]

/-- The 34 rows of R56 in its order; row 35 matches what none of them does. -/
def opRows : List OpRow := opRowsLow ++ opRows8 ++ opRowsMid ++ opRowsF

end Sys2Proof
end

