-- ==== Sys2Proof/Machine/Memory.lean ====
section
/-! DEFINITION. The 4096-byte memory (20_memory.md R30 to R36) as a list of cells in one canonical form:
addresses strictly rising, none outside the address space, and no cell equal to the reset contents,
which is what an unlisted address reads as (log 11). -/

namespace Sys2Proof.Machine

/-- The listed cells, (address, byte). -/
abbrev Memory := List Host.Cell

/-- The base of the fontset (R31, R142). -/
def fontBase : Nat := 0x050

/-- Glyph 0, the one the source fixes: the first five bytes of `FONT` under every configuration (R32, D30). -/
def glyphZero : List Byte := [0xF0, 0x90, 0x90, 0x90, 0xF0]

/-- Glyphs 1 to 7 of the customary `FONT` table, general knowledge (R32; log 12). -/
def glyphsLow : List Byte :=
  [0x20, 0x60, 0x20, 0x20, 0x70] ++
  [0xF0, 0x10, 0xF0, 0x80, 0xF0] ++ [0xF0, 0x10, 0xF0, 0x10, 0xF0] ++
  [0x90, 0x90, 0xF0, 0x10, 0x10] ++ [0xF0, 0x80, 0xF0, 0x10, 0xF0] ++
  [0xF0, 0x80, 0xF0, 0x90, 0xF0] ++ [0xF0, 0x10, 0x20, 0x40, 0x40]

/-- Glyphs 8 to F of the customary `FONT` table, general knowledge (R32; log 12). -/
def glyphsHigh : List Byte :=
  [0xF0, 0x90, 0xF0, 0x90, 0xF0] ++ [0xF0, 0x90, 0xF0, 0x10, 0xF0] ++
  [0xF0, 0x90, 0xF0, 0x90, 0x90] ++ [0xE0, 0x90, 0xE0, 0x90, 0xE0] ++
  [0xF0, 0x80, 0x80, 0x80, 0xF0] ++ [0xE0, 0x90, 0x90, 0x90, 0xE0] ++
  [0xF0, 0x80, 0xF0, 0x80, 0xF0] ++ [0xF0, 0x80, 0xF0, 0x80, 0x80]

/-- The 75 bytes of `FONT` that a configuration may choose, at their defaults (R32, D30; log 12). -/
def customaryGlyphs : Vector Byte 75 := ⟨(glyphsLow ++ glyphsHigh).toArray, rfl⟩

/-- The `FONT` table of a configuration: 16 glyphs of 5 rows, top row first, glyph 0 fixed and the other 75
bytes as configured (R32, D30). -/
def fontOf (glyphs : Vector Byte 75) : List Byte := glyphZero ++ glyphs.toList

/-- The 80 bytes of the fontset with the default glyphs (R32). -/
def font : List Byte := fontOf customaryGlyphs

/-- What an unlisted address reads as: the reset contents with an empty ROM, the fontset at 0x050 to
0x09F and zero elsewhere (R25, R31). -/
def background (a : Nat) : Byte :=
  if fontBase ≤ a ∧ a < fontBase + 80 then font.getD (a - fontBase) 0 else 0

/-- The byte at an address number. -/
def Memory.lookup : Memory → Nat → Byte
  | [], a => background a
  | (k, b) :: rest, a => if k = a then b else Memory.lookup rest a

/-- Lists a cell in its place, replacing the one at the same address. -/
def Memory.put : Memory → Nat → Byte → Memory
  | [], a, b => [(a, b)]
  | (k, c) :: rest, a, b =>
    if a < k then (a, b) :: (k, c) :: rest
    else if a = k then (a, b) :: rest
    else (k, c) :: Memory.put rest a b

/-- Drops the cell at an address. -/
def Memory.drop : Memory → Nat → Memory
  | [], _ => []
  | (k, c) :: rest, a => if k = a then rest else (k, c) :: Memory.drop rest a

/-- `MemRead(a, 1)` (R34). -/
def Memory.read (m : Memory) (a : Addr) : Byte := Memory.lookup m a.toNat

/-- `MemWrite(a, 1, v)` (R36): no address is protected. -/
def Memory.write (m : Memory) (a : Addr) (b : Byte) : Memory :=
  if b = background a.toNat then Memory.drop m a.toNat else Memory.put m a.toNat b

/-- The bytes of a list at rising addresses from a base (R183). -/
def Memory.writeList (m : Memory) (base : Nat) : List Byte → Memory
  | [] => m
  | b :: rest => Memory.writeList (m.write (BitVec.ofNat 12 base) b) (base + 1) rest

/-- The canonical form. -/
abbrev Memory.wf (m : Memory) : Prop :=
  m.Pairwise (fun c d => c.1 < d.1) ∧ ∀ c ∈ m, c.1 < 4096 ∧ c.2 ≠ background c.1

end Sys2Proof.Machine
end

