-- ==== Sys2Proof/Machine/Parameters.lean ====
section
/-! DEFINITION. The parameters the machine starts with, and how a host's configuration gives them
(00_scope.md R6). -/

namespace Sys2Proof.Machine

/-- The parameters of `State.reset`: the free values of `Config` for what the spec leaves OPEN (log 2), and
the spec's defaults for SPRITE_CLIP (D9) and STRICT_DECODE (D12; log 3). -/
def resetParams : Params where
  qVfReset := Config.qVfReset
  qShiftCopy := Config.qShiftCopy
  qJumpV0 := Config.qJumpV0
  qMemInc := Config.qMemInc
  spriteClip := false
  strictDecode := false
  ipt := Config.ipt

/-- IPT for a host that configures instructions per second (R164, C5). -/
def iptOfFrequency (f : Nat) : Nat := f / 60

/-- The parameters for the document's four toggles, `Q_SHIFT_COPY = shift-legacy` (R6, C1, D28), and a
frequency, the other parameters at the spec's defaults. -/
def paramsOfToggles (vfReset shiftLegacy jumpLegacy memIncrement : Bool) (frequency : Nat) : Params where
  qVfReset := vfReset
  qShiftCopy := shiftLegacy
  qJumpV0 := jumpLegacy
  qMemInc := memIncrement
  spriteClip := false
  strictDecode := false
  ipt := iptOfFrequency frequency

end Sys2Proof.Machine
end

