-- ==== Sys2Proof/Machine/State.lean ====
section
/-! DEFINITION. The state of the machine as plain data (10_state.md), the reasons a step can stop, and
the state after reset (10_state.md R25). -/

namespace Sys2Proof.Machine

/-- The causes of a fault, with the spec's code numbers in R151. -/
inductive FaultCause where
  /-- 1: a fetch with PC > 0xFFE (R46). -/
  | fetchRange
  /-- 2: 2nnn with SP = 16 (R83). -/
  | stackOverflow
  /-- 3: 00EE with SP = 0 (R81). -/
  | stackUnderflow
  /-- 4: Ex9E or ExA1 with V[x] > 15 (R136). -/
  | keyRange
  /-- 5: an unmapped opcode under STRICT_DECODE (R58). -/
  | illegalInstruction
  deriving DecidableEq, Repr

/-- `STATUS` (R21). -/
inductive Status where
  | running
  /-- The ROM was longer than 3584 bytes (R184). -/
  | loadError
  /-- A fault, with the address of the faulting instruction and its opcode, 0 for `fetchRange`. -/
  | faulted (cause : FaultCause) (pc opcode : Word)
  deriving DecidableEq, Repr

structure State where
  /-- `V[0]` to `V[15]` (R10, R11). -/
  v : Vector Byte 16
  /-- `PC` (R12). -/
  pc : Word
  /-- `I` (R13). -/
  i : Word
  /-- `STACK[0]` to `STACK[15]` (R14). -/
  stack : Vector Word 16
  /-- `SP`, the number of return addresses held, 0 to 16 (R15; log 16). -/
  sp : Fin 17
  /-- `DT` (R16). -/
  dt : Byte
  /-- `ST` (R17). -/
  st : Byte
  /-- `KEY` (R18). -/
  key : Keypad
  /-- `FB` (R19). -/
  fb : Framebuffer
  /-- `MEM` (R30). -/
  mem : Memory
  /-- `OPCODE`, the latch (R20; log 8). -/
  opcode : Word
  /-- `STATUS` (R21; log 7). -/
  status : Status
  /-- `TONE` (R22). -/
  tone : Bool
  /-- The position in `rand` (R24). -/
  randPos : Nat
  /-- The configuration, which nothing changes (R6, R23; log 1). -/
  params : Params
  /-- The model's own: the cycles left before this frame's tick (R164; log 6). -/
  cyclesLeft : Nat
  /-- The model's own: the number of ticks so far (R164; log 5). -/
  tickCount : Nat
  /-- The model's own: the supplied next bytes of `rand` (R24; log 4). -/
  randAhead : List Byte
  /-- The model's own: the supplied next samples of `keys` (R162; log 5). -/
  keysAhead : List Keypad
  /-- The model's own: the framebuffer last presented to the display (R165; log 15). -/
  display : Option Framebuffer
  deriving DecidableEq, Repr

/-- The reasons a step leaves the machine's own state space: none. The spec's fatal conditions are
writes of `STATUS` (R150, R152), so a step that faults answers a next state (log 7). -/
inductive Fault
  deriving DecidableEq, Repr

/-- The reasons the model gives an instruction no meaning. -/
inductive Refusal where
  /-- Raised by an arm of `exec` for an instruction without a meaning; safe. No arm raises it. -/
  | notModelled (mnemonic : String)
  deriving DecidableEq, Repr

/-- Every pixel off. -/
def blankScreen : Framebuffer := Vector.replicate 32 (Vector.replicate 64 false)

/-- The keypad with no key pressed. -/
def noKeys : Keypad := Vector.replicate 16 false

/-- The machine right after reset, with an empty ROM (R25, R180; log 9, log 10). A program is placed by
`State.resetWith` (log 13). -/
def State.reset : State where
  v := Vector.replicate 16 0
  pc := 0x0200
  i := 0
  stack := Vector.replicate 16 0
  sp := 0
  dt := 0
  st := 0
  key := noKeys
  fb := blankScreen
  mem := []
  opcode := 0
  status := .running
  tone := false
  randPos := 0
  params := resetParams
  cyclesLeft := resetParams.ipt
  tickCount := 0
  randAhead := []
  keysAhead := []
  display := none

end Sys2Proof.Machine
end

