-- ==== Sys2Proof/Machine/Ops.lean ====
section
/-! DEFINITION. The named operations over registers, memory, stack, keypad, timers and random stream;
taking a fault; the tick; reset with a program. There is no return from a fault (60_exceptions.md R155). -/

namespace Sys2Proof.Machine

/-- What every meaning answers. -/
abbrev Result := Host.Outcome State Fault Refusal

/-! ## Registers -/

/-- `V[r]` (R10). -/
def State.readV (s : State) (r : Reg) : Byte := s.v[r.val]

/-- `V[r] <- b` (R10). -/
def State.writeV (s : State) (r : Reg) (b : Byte) : State := { s with v := s.v.set r.val b r.isLt }

/-- `PC <- a` (R12). -/
def State.setPc (s : State) (a : Word) : State := { s with pc := a }

/-- `I <- a` (R13). -/
def State.setI (s : State) (a : Word) : State := { s with i := a }

/-- `DT <- b` (R16). -/
def State.setDt (s : State) (b : Byte) : State := { s with dt := b }

/-- `ST <- b` (R17). -/
def State.setSt (s : State) (b : Byte) : State := { s with st := b }

/-- `FB <- f` (R19). -/
def State.setFb (s : State) (f : Framebuffer) : State := { s with fb := f }

/-- The length of an instruction in bytes (R50). -/
def instrBytes : Word := 2

/-- PC past the word it points at, modulo 65536: the fetch's advance and a taken skip (R12, R89). -/
def State.advancePc (s : State) : State := s.setPc (s.pc + instrBytes)

/-- PC back by one word, modulo 65536: from the execute phase, to PC0 (R133, R152). -/
def State.rewindPc (s : State) : State := s.setPc (s.pc - instrBytes)

/-- A skip: `PC <- (PC + 2) mod 65536` iff the comparison holds (R89). -/
def State.skipIf (s : State) (c : Bool) : State := if c then s.advancePc else s

/-! ## Memory -/

/-- `EA(k) = (I + k) mod 4096` (R37). -/
def State.ea (s : State) (k : Nat) : Addr := BitVec.ofNat 12 (s.i.toNat + k)

/-- `MemRead(a, 1)` (R34). -/
def State.readByte (s : State) (a : Addr) : Byte := s.mem.read a

/-- `MemWrite(a, 1, b)` (R36). -/
def State.writeByte (s : State) (a : Addr) (b : Byte) : State := { s with mem := s.mem.write a b }

/-- `MemRead(PC, 2)`, big-endian (R33, R35); the fetch has checked that PC <= 0xFFE. -/
def State.fetchWord (s : State) : Word :=
  joinBytes (s.readByte (BitVec.ofNat 12 s.pc.toNat)) (s.readByte (BitVec.ofNat 12 (s.pc.toNat + 1)))

/-- The largest PC a fetch accepts (R46). -/
def lastFetch : Nat := 0xFFE

/-- `(I + n) mod 4096`, every incrementing write of I (R141, R146). -/
def addIndex (i : Word) (n : Nat) : Word := BitVec.ofNat 16 ((i.toNat + n) % 4096)

/-- The post-increment of Fx55 and Fx65: I past n bytes under `Q_MEM_INC` (R144, R145). -/
def State.bumpI (s : State) (n : Nat) : State :=
  if s.params.qMemInc then s.setI (addIndex s.i n) else s

/-! ## Stack -/

/-- `STACK[SP] <- a; SP <- SP + 1`, or none when the stack is full (R83). -/
def State.push? (s : State) (a : Word) : Option State :=
  if h : s.sp.val < 16 then
    some { s with stack := s.stack.set s.sp.val a h, sp := ⟨s.sp.val + 1, by omega⟩ }
  else none

/-- `SP <- SP - 1` and `STACK[SP]`, or none when the stack is empty (R81). The entry stays (R14). -/
def State.pop? (s : State) : Option (Word × State) :=
  if h : s.sp.val = 0 then none
  else
    some (s.stack[s.sp.val - 1]'(by have := s.sp.isLt; omega),
      { s with sp := ⟨s.sp.val - 1, by have := s.sp.isLt; omega⟩ })

/-! ## Keypad, timers, random stream -/

/-- `KEY[k]` for a full 8-bit index, none above 15 (R136). -/
def keyAt? (key : Keypad) (k : Byte) : Option Bool :=
  if h : k.toNat < 16 then some (key[k.toNat]'h) else none

/-- The least pressed key, if any (R133). -/
def firstPressed (key : Keypad) : Option Reg := (List.finRange 16).find? (fun k => key[k.val])

/-- A timer after one tick (R161): down by 1, and 0 stays 0. -/
def countDown (t : Byte) : Byte := BitVec.ofNat 8 (t.toNat - 1)

/-- The next byte of `rand` (R24, R111): the supplied one, else the free value at the position. -/
def State.nextRand (s : State) : Byte := s.randAhead.headD (Config.rand s.randPos)

/-- One byte of `rand` consumed (R24). -/
def State.advanceRand (s : State) : State :=
  { s with randPos := s.randPos + 1, randAhead := s.randAhead.tail }

/-- The key sample of the coming tick (R162): the supplied one, else the free value at the tick's number. -/
def State.nextKeys (s : State) : Keypad := s.keysAhead.headD (Config.keys s.tickCount)

/-! ## Faults -/

/-- `raise Fault(cause)` (R152): STATUS is written, PC is PC0, and nothing else changes. -/
def State.raiseFault (s : State) (cause : FaultCause) (pc0 opcode : Word) : State :=
  { s with pc := pc0, status := .faulted cause pc0 opcode }

/-- A fault of the instruction i in its execute phase, where PC is PC0 + 2 (R55, R152; log 7, log 14). -/
def State.faultIn (s : State) (cause : FaultCause) (i : Instr) : State :=
  s.raiseFault cause (s.pc - instrBytes) (encode i)

/-! ## The cycle's end and the tick -/

/-- The end of a cycle that fetched w: OPCODE holds w and one cycle of the frame is used, unless the cycle
faulted, which changes nothing but STATUS (R20, R55, R152; log 6, log 8). -/
def State.endCycle (s : State) (w : Word) : State :=
  if s.status = .running then { s with opcode := w, cyclesLeft := s.cyclesLeft - 1 } else s

/-- `Tick(k)` with the coming key sample (R160): the tone is sampled before the decrement (R163, C3), the
framebuffer is presented (R165), and the next frame has IPT cycles (R164). -/
def State.tick (s : State) : State :=
  { s with
    tone := decide (0 < s.st.toNat)
    dt := countDown s.dt
    st := countDown s.st
    key := s.nextKeys
    keysAhead := s.keysAhead.tail
    tickCount := s.tickCount + 1
    display := some s.fb
    cyclesLeft := s.params.ipt }

/-! ## Reset with a program -/

/-- The origin of a program (R31, R183). -/
def programOrigin : Nat := 0x200

/-- The usable program space in bytes (R183). -/
def programSpace : Nat := 3584

/-- `Reset(rom, parameters)` (R180) with the configurable glyphs 1 to F (R32, D30) and supplied beginnings of the
two input streams: the ROM goes to 0x200 verbatim (R183); one longer than 3584 bytes is not loaded at all (R184). -/
def State.resetWith (p : Params) (glyphs : Vector Byte 75) (rom rand : List Byte) (keys : List Keypad) : State :=
  let m := Memory.writeList [] fontBase (fontOf glyphs)
  let s : State := { State.reset with
    params := p, cyclesLeft := p.ipt, randAhead := rand, keysAhead := keys, mem := m }
  if programSpace < rom.length then { s with status := .loadError }
  else { s with mem := Memory.writeList m programOrigin rom }

/-- A state in which the very next step runs the instruction word w: w stands big-endian at PC. Where the
state would not fetch (a PC past 0xFFE, a machine that does not run, a frame with no cycle left) that is
mended too, the frame getting one cycle more (log 13). -/
def State.placeWord (s : State) (w : Word) : State :=
  let pc : Word := if s.pc.toNat ≤ lastFetch then s.pc else BitVec.ofNat 16 programOrigin
  let m := (s.mem.write (BitVec.ofNat 12 pc.toNat) (highByte w)).write
    (BitVec.ofNat 12 (pc.toNat + 1)) (lowByte w)
  { s with pc := pc, mem := m, status := .running, cyclesLeft := s.cyclesLeft + 1 }

end Sys2Proof.Machine
end

