-- ==== Sys2Proof/Machine/Operands.lean ====
section
/-! DEFINITION. The operand forms: what an instruction computes with, from its fields and the state. All
immediates are unsigned and zero-extended (30_encoding.md R52). -/

namespace Sys2Proof.Machine

/-- `zext_16(nnn)` (R82, R83, R140). -/
def addressWord (nnn : Addr) : Word := BitVec.ofNat 16 nnn.toNat

/-- x = nnn[11:8] of Bnnn (R88). -/
def offsetReg (nnn : Addr) : Reg := regOf (nnn.toNat / 256)

/-- kk = nnn[7:0] of Bnnn (R88). -/
def offsetByte (nnn : Addr) : Nat := nnn.toNat % 256

/-- The target of Bnnn: V0 + nnn under `Q_JUMP_V0`, else V[x] + kk, modulo 65536 and not masked (R88). -/
def State.offsetTarget (s : State) (nnn : Addr) : Word :=
  if s.params.qJumpV0 then BitVec.ofNat 16 ((s.readV 0).toNat + nnn.toNat)
  else BitVec.ofNat 16 ((s.readV (offsetReg nnn)).toNat + offsetByte nnn)

/-- The pre-shift source of SHR and SHL (R108, R110). -/
def State.shiftSource (s : State) (x y : Reg) : Byte :=
  if s.params.qShiftCopy then s.readV y else s.readV x

/-- The address of the glyph for a register's whole value, `0x050 + 5 * V[x]` (R142). -/
def glyphAddress (b : Byte) : Word := BitVec.ofNat 16 (fontBase + 5 * b.toNat)

/-- xPos = Vx mod 64 (R121, R123). -/
def spriteColumn (b : Byte) : Nat := b.toNat % 64

/-- yPos = Vy mod 32 (R121, R123). -/
def spriteRow (b : Byte) : Nat := b.toNat % 32

/-- Row r of the sprite at I (R122). -/
def State.spriteByte (s : State) (r : Nat) : Byte := s.readByte (s.ea r)

/-- The hundreds digit (R143). -/
def hundreds (b : Byte) : Byte := BitVec.ofNat 8 (b.toNat / 100)

/-- The tens digit (R143). -/
def tens (b : Byte) : Byte := BitVec.ofNat 8 (b.toNat / 10 % 10)

/-- The ones digit (R143). -/
def ones (b : Byte) : Byte := BitVec.ofNat 8 (b.toNat % 10)

end Sys2Proof.Machine
end

