-- ==== Sys2Proof/Machine/Flags.lean ====
section
/-! DEFINITION. The 8-bit arithmetic and every value VF is given (10_state.md R11, 41_load_alu.md R112,
R113). Operands are taken as naturals, the result is exact, and it is narrowed at the end. -/

namespace Sys2Proof.Machine

/-- `(a + b) mod 256` (R101, R106). -/
def sumByte (a b : Byte) : Byte := BitVec.ofNat 8 (a.toNat + b.toNat)

/-- `(a - b) mod 256` (R107, R109). -/
def differenceByte (a b : Byte) : Byte := BitVec.ofInt 8 ((a.toNat : Int) - (b.toNat : Int))

/-- `s div 2`, the logical shift right by one (R108). -/
def halfByte (b : Byte) : Byte := BitVec.ofNat 8 (b.toNat / 2)

/-- `(s * 2) mod 256`, the shift left by one (R110). -/
def doubleByte (b : Byte) : Byte := BitVec.ofNat 8 (b.toNat * 2)

/-- VF is set to exactly 0 or 1 (R11). -/
def flagOf (c : Bool) : Byte := if c then 1 else 0

/-- The carry out of bit 7 (R106). -/
def carryFlag (a b : Byte) : Byte := flagOf (decide (255 < a.toNat + b.toNat))

/-- NOT borrow of a - b (R107, R109). -/
def notBorrowFlag (a b : Byte) : Byte := flagOf (decide (b.toNat ≤ a.toNat))

/-- Bit 0 of the pre-shift source (R108). -/
def shiftedOutRight (b : Byte) : Byte := BitVec.ofNat 8 (b.toNat % 2)

/-- Bit 7 of the pre-shift source (R110). -/
def shiftedOutLeft (b : Byte) : Byte := BitVec.ofNat 8 (b.toNat / 128)

/-- The result goes to V[x] first and the flag to VF last, so that x = 15 ends as the flag (R113). -/
def State.writeResultThenFlag (s : State) (x : Reg) (result flag : Byte) : State :=
  (s.writeV x result).writeV regF flag

/-- OR, AND, XOR: the result, then VF <- 0 under `Q_VF_RESET`, else VF untouched (R103 to R105). -/
def State.writeLogic (s : State) (x : Reg) (result : Byte) : State :=
  if s.params.qVfReset then s.writeResultThenFlag x result 0 else s.writeV x result

end Sys2Proof.Machine
end

