-- ==== Sys2Proof/Machine/Alu.lean ====
section
/-! DEFINITION. Loads, arithmetic, logic, shifts and the random instruction (41_load_alu.md). Both operands
are read before any write (R113). -/

namespace Sys2Proof.Machine

/-- 6xkk, `LD Vx, kk` (R100). -/
def execLdByte (x : Reg) (kk : Byte) (s : State) : Result := .next (s.writeV x kk)

/-- 7xkk, `ADD Vx, kk` (R101): no flag. -/
def execAddByte (x : Reg) (kk : Byte) (s : State) : Result := .next (s.writeV x (sumByte (s.readV x) kk))

/-- 8xy0, `LD Vx, Vy` (R102). -/
def execLdReg (x y : Reg) (s : State) : Result := .next (s.writeV x (s.readV y))

/-- 8xy1, `OR Vx, Vy` (R103). -/
def execOrReg (x y : Reg) (s : State) : Result := .next (s.writeLogic x (s.readV x ||| s.readV y))

/-- 8xy2, `AND Vx, Vy` (R104). -/
def execAndReg (x y : Reg) (s : State) : Result := .next (s.writeLogic x (s.readV x &&& s.readV y))

/-- 8xy3, `XOR Vx, Vy` (R105). -/
def execXorReg (x y : Reg) (s : State) : Result := .next (s.writeLogic x (s.readV x ^^^ s.readV y))

/-- 8xy4, `ADD Vx, Vy` (R106). -/
def execAddReg (x y : Reg) (s : State) : Result :=
  .next (s.writeResultThenFlag x (sumByte (s.readV x) (s.readV y)) (carryFlag (s.readV x) (s.readV y)))

/-- 8xy5, `SUB Vx, Vy` (R107): Vx - Vy. -/
def execSubReg (x y : Reg) (s : State) : Result :=
  .next (s.writeResultThenFlag x (differenceByte (s.readV x) (s.readV y))
    (notBorrowFlag (s.readV x) (s.readV y)))

/-- 8xy7, `SUBN Vx, Vy` (R109): Vy - Vx. -/
def execSubnReg (x y : Reg) (s : State) : Result :=
  .next (s.writeResultThenFlag x (differenceByte (s.readV y) (s.readV x))
    (notBorrowFlag (s.readV y) (s.readV x)))

/-- 8xy6, `SHR Vx, Vy` (R108). -/
def execShrReg (x y : Reg) (s : State) : Result :=
  .next (s.writeResultThenFlag x (halfByte (s.shiftSource x y)) (shiftedOutRight (s.shiftSource x y)))

/-- 8xyE, `SHL Vx, Vy` (R110). -/
def execShlReg (x y : Reg) (s : State) : Result :=
  .next (s.writeResultThenFlag x (doubleByte (s.shiftSource x y)) (shiftedOutLeft (s.shiftSource x y)))

/-- Cxkk, `RND Vx, kk` (R111): one byte of the stream, masked. -/
def execRnd (x : Reg) (kk : Byte) (s : State) : Result :=
  .next (s.advanceRand.writeV x (s.nextRand &&& kk))

end Sys2Proof.Machine
end

