-- ==== Sys2Proof/Machine/Control.lean ====
section
/-! DEFINITION. Control flow (40_control_flow.md) and the unmapped words. In every meaning PC already
holds PC0 + 2 (30_encoding.md R55). -/

namespace Sys2Proof.Machine

/-- 00EE, `RET` (R81): StackUnderflow when SP = 0; the popped value is used as it is. -/
def execRet (g : Byte) (s : State) : Result :=
  match s.pop? with
  | none => .next (s.faultIn .stackUnderflow (.ret g))
  | some (a, t) => .next (t.setPc a)

/-- 1nnn, `JP nnn` (R82). -/
def execJp (nnn : Addr) (s : State) : Result := .next (s.setPc (addressWord nnn))

/-- 2nnn, `CALL nnn` (R83): pushes the advanced PC; StackOverflow when SP = 16. -/
def execCall (nnn : Addr) (s : State) : Result :=
  match s.push? s.pc with
  | none => .next (s.faultIn .stackOverflow (.call nnn))
  | some t => .next (t.setPc (addressWord nnn))

/-- 3xkk, `SE Vx, kk` (R84). -/
def execSeByte (x : Reg) (kk : Byte) (s : State) : Result := .next (s.skipIf (s.readV x == kk))

/-- 4xkk, `SNE Vx, kk` (R85). -/
def execSneByte (x : Reg) (kk : Byte) (s : State) : Result := .next (s.skipIf (s.readV x != kk))

/-- 5xy0, `SE Vx, Vy` (R86). -/
def execSeReg (x y : Reg) (s : State) : Result := .next (s.skipIf (s.readV x == s.readV y))

/-- 9xy0, `SNE Vx, Vy` (R87). -/
def execSneReg (x y : Reg) (s : State) : Result := .next (s.skipIf (s.readV x != s.readV y))

/-- Bnnn, `JP V0, nnn` (R88). -/
def execJpV0 (nnn : Addr) (s : State) : Result := .next (s.setPc (s.offsetTarget nnn))

/-- An unmapped word (R58, R80, R114): nothing, or IllegalInstruction under `STRICT_DECODE`. -/
def execNop (w : Word) (s : State) : Result :=
  if s.params.strictDecode then .next (s.faultIn .illegalInstruction (.nop w)) else .next s

end Sys2Proof.Machine
end

