-- ==== Sys2Proof/Machine/Display.lean ====
section
/-! DEFINITION. The display instructions (42_display.md). -/

namespace Sys2Proof.Machine

/-- `FB[r][c]` (R19). -/
def pixel (fb : Framebuffer) (r : Fin 32) (c : Fin 64) : Bool := fb[r.val][c.val]

/-- `FB[r][c] <- NOT FB[r][c]`. -/
def flipPixel (fb : Framebuffer) (r : Fin 32) (c : Fin 64) : Framebuffer :=
  fb.set r.val (fb[r.val].set c.val (!pixel fb r c) c.isLt) r.isLt

/-- Bit `7 - c` of a sprite byte is the pixel at sprite column c (R122). -/
def spriteBit (b : Byte) (c : Nat) : Bool := b.getLsbD (7 - c)

/-- The row a coordinate wraps to (R123). -/
def wrapRow (k : Nat) : Fin 32 := Fin.ofNat 32 k

/-- The column a coordinate wraps to (R123). -/
def wrapColumn (k : Nat) : Fin 64 := Fin.ofNat 64 k

/-- A framebuffer in the course of a draw, and whether a pixel that was on has been met (VF = 1). -/
abbrev Canvas := Framebuffer × Bool

/-- One sprite pixel at (row, col) before wrapping: skipped past an edge under `SPRITE_CLIP`, else wrapped;
a pixel that was on sets the collision, which is never reset; the pixel is inverted (R121, R123). -/
def plot (clip : Bool) (row col : Nat) (d : Canvas) : Canvas :=
  if clip && (decide (63 < col) || decide (31 < row)) then d
  else
    (flipPixel d.1 (wrapRow row) (wrapColumn col),
      d.2 || pixel d.1 (wrapRow row) (wrapColumn col))

/-- One sprite row b whose leftmost pixel is at (row, xp): columns 0 to 7 in order (R121). -/
def plotRow (clip : Bool) (row xp : Nat) (b : Byte) (d : Canvas) : Canvas :=
  (List.range 8).foldl (fun d c => if spriteBit b c then plot clip row (xp + c) d else d) d

/-- Rows 0 to n - 1 of the sprite at I, drawn at (xp, yp) (R121). -/
def State.plotSprite (s : State) (xp yp n : Nat) : Canvas :=
  (List.range n).foldl
    (fun d r => plotRow s.params.spriteClip (yp + r) xp (s.spriteByte r) d) (s.fb, false)

/-- 00E0, `CLS` (R120); the ignored bits take no part (R57). -/
def execCls (s : State) : Result := .next (s.setFb blankScreen)

/-- Dxyn, `DRW Vx, Vy, n` (R121): coordinates from the registers as they were (D10), VF written even for
n = 0 (D8). -/
def execDrw (x y : Reg) (n : Fin 16) (s : State) : Result :=
  let d := s.plotSprite (spriteColumn (s.readV x)) (spriteRow (s.readV y)) n.val
  .next ((s.setFb d.1).writeV regF (flagOf d.2))

end Sys2Proof.Machine
end

