-- ==== Sys2Proof/Machine/Index.lean ====
section
/-! DEFINITION. Index-register and memory instructions (44_index_memory.md). -/

namespace Sys2Proof.Machine

/-- Annn, `LD I, nnn` (R140). -/
def execLdI (nnn : Addr) (s : State) : Result := .next (s.setI (addressWord nnn))

/-- Fx1E, `ADD I, Vx` (R141): modulo 4096, no flag. -/
def execAddI (x : Reg) (s : State) : Result := .next (s.setI (addIndex s.i (s.readV x).toNat))

/-- Fx29, `LD F, Vx` (R142). -/
def execLdF (x : Reg) (s : State) : Result := .next (s.setI (glyphAddress (s.readV x)))

/-- Fx33, `LD B, Vx` (R143): hundreds at I, tens and ones after it; I unchanged. -/
def execLdB (x : Reg) (s : State) : Result :=
  .next (((s.writeByte (s.ea 0) (hundreds (s.readV x))).writeByte (s.ea 1) (tens (s.readV x))).writeByte
    (s.ea 2) (ones (s.readV x)))

/-- V[0] to V[n - 1] stored at EA(0) to EA(n - 1), ascending, I as before the instruction (R144). -/
def State.storeRegs (s : State) (n : Nat) : State :=
  (List.range n).foldl (fun t k => t.writeByte (s.ea k) (s.readV (regOf k))) s

/-- V[0] to V[n - 1] loaded from EA(0) to EA(n - 1), ascending (R145). -/
def State.loadRegs (s : State) (n : Nat) : State :=
  (List.range n).foldl (fun t k => t.writeV (regOf k) (s.readByte (s.ea k))) s

/-- Fx55, `LD [I], Vx` (R144): x + 1 bytes, then I past them under `Q_MEM_INC`. -/
def execStore (x : Reg) (s : State) : Result := .next ((s.storeRegs (x.val + 1)).bumpI (x.val + 1))

/-- Fx65, `LD Vx, [I]` (R145): x + 1 bytes, then I past them under `Q_MEM_INC`. -/
def execLoad (x : Reg) (s : State) : Result := .next ((s.loadRegs (x.val + 1)).bumpI (x.val + 1))

end Sys2Proof.Machine
end

