-- ==== Sys2Proof/Machine/Keypad.lean ====
section
/-! DEFINITION. Keypad and timer instructions (43_keypad_timers.md). They see the snapshot KEY of the last
tick (R136). -/

namespace Sys2Proof.Machine

/-- Ex9E, `SKP Vx` (R130): KeyRange when V[x] > 15. -/
def execSkp (x : Reg) (g : Nibble) (s : State) : Result :=
  match keyAt? s.key (s.readV x) with
  | none => .next (s.faultIn .keyRange (.skp x g))
  | some down => .next (s.skipIf down)

/-- ExA1, `SKNP Vx` (R131): KeyRange when V[x] > 15. -/
def execSknp (x : Reg) (g : Nibble) (s : State) : Result :=
  match keyAt? s.key (s.readV x) with
  | none => .next (s.faultIn .keyRange (.sknp x g))
  | some down => .next (s.skipIf (!down))

/-- Fx0A, `LD Vx, K` (R133): the least pressed key, or PC back to PC0 when none is pressed. -/
def execLdVxK (x : Reg) (s : State) : Result :=
  match firstPressed s.key with
  | none => .next s.rewindPc
  | some k => .next (s.writeV x (BitVec.ofNat 8 k.val))

/-- Fx07, `LD Vx, DT` (R132). -/
def execLdVxDt (x : Reg) (s : State) : Result := .next (s.writeV x s.dt)

/-- Fx15, `LD DT, Vx` (R134). -/
def execLdDtVx (x : Reg) (s : State) : Result := .next (s.setDt (s.readV x))

/-- Fx18, `LD ST, Vx` (R135). -/
def execLdStVx (x : Reg) (s : State) : Result := .next (s.setSt (s.readV x))

end Sys2Proof.Machine
end

