-- ==== Sys2Proof/Machine/Cycle.lean ====
section
/-! DEFINITION. One instruction cycle, fetch, decode and execute (30_encoding.md R55). -/

namespace Sys2Proof.Machine

/-- The cycle of a running machine: FetchRange when PC0 > 0xFFE (R46), else the word at PC is fetched, PC
advances before any effect of the instruction, and the instruction executes. -/
def State.cycle (s : State) : Result :=
  if lastFetch < s.pc.toNat then .next (s.raiseFault .fetchRange s.pc 0)
  else
    match exec (decode s.fetchWord) s.advancePc with
    | .next t => .next (t.endCycle s.fetchWord)
    | .fault r => .fault r
    | .refused r => .refused r

end Sys2Proof.Machine
end

