-- ==== Sys2Proof/Machine/Step.lean ====
section
/-! DEFINITION. One step of the machine: one cycle or one tick (60_exceptions.md R164; log 6). -/

namespace Sys2Proof.Machine

/-- IPT cycles, then one tick, repeated; nothing once the machine does not run (R154, R164). -/
def step (s : State) : Host.Outcome State Fault Refusal :=
  match s.status with
  | .running =>
    match s.cyclesLeft with
    | 0 => .next s.tick
    | _ + 1 => s.cycle
  | .loadError => .next s
  | .faulted _ _ _ => .next s

/-- The state with an instruction, numbered as spec/opcode_table.json numbers its bits, where the next
step fetches (log 13). -/
def State.withFetchWord (s : State) (nbits w : Nat) : State := s.placeWord (tableWord nbits w)

end Sys2Proof.Machine
end

