-- ==== Sys2Proof/Safety.lean ====
section
/-! DEFINITION. What counts as a good state, and the terms claims use: the invariant of a run, the end of a
run, and the pixels a sprite covers. -/

namespace Sys2Proof.Machine

/-- A cycle will fetch: the machine runs, the frame has a cycle left, and both opcode bytes are in memory
(R46, R154, R164). -/
def State.fetches (s : State) : Prop :=
  s.status = .running ∧ s.cyclesLeft ≠ 0 ∧ s.pc.toNat ≤ lastFetch

/-- Every return address held was pushed by a call at an address 0 to 0xFFE (R26, R83). -/
def State.stackEntriesOk (s : State) : Prop :=
  ∀ k : Fin 16, k.val < s.sp.val → 2 ≤ s.stack[k.val].toNat ∧ s.stack[k.val].toNat ≤ 0x1000

/-- A fault record describes the instruction at PC and the condition that made it fault (R151, R152). -/
def State.faultRecordOk (s : State) : Prop :=
  match s.status with
  | .running => True
  | .loadError => True
  | .faulted .fetchRange p o => p = s.pc ∧ o = 0 ∧ lastFetch < p.toNat
  | .faulted .stackOverflow p o =>
    p = s.pc ∧ o = s.fetchWord ∧ p.toNat ≤ lastFetch ∧ s.sp.val = 16 ∧ ∃ nnn, decode o = .call nnn
  | .faulted .stackUnderflow p o =>
    p = s.pc ∧ o = s.fetchWord ∧ p.toNat ≤ lastFetch ∧ s.sp.val = 0 ∧ ∃ g, decode o = .ret g
  | .faulted .keyRange p o =>
    p = s.pc ∧ o = s.fetchWord ∧ p.toNat ≤ lastFetch ∧
      ∃ x g, (decode o = .skp x g ∨ decode o = .sknp x g) ∧ 15 < (s.readV x).toNat
  | .faulted .illegalInstruction p o =>
    p = s.pc ∧ o = s.fetchWord ∧ p.toNat ≤ lastFetch ∧ s.params.strictDecode = true ∧ decode o = .nop o

/-- The invariant of a run (R26): memory in canonical form, I below 4096 (R13, R146), return addresses that a
call pushed, PC no further than the largest jump target 0x10FE (R88), the frame position within the frame
(R164), and a truthful fault record. -/
structure State.Inv (s : State) : Prop where
  memCanonical : s.mem.wf
  indexInRange : s.i.toNat < 4096
  stackEntries : s.stackEntriesOk
  pcBound : s.pc.toNat ≤ 0x10FE
  frameBound : s.cyclesLeft ≤ s.params.ipt
  faultRecord : s.faultRecordOk

/-- A final state: the machine runs and the two bytes at PC are a jump to PC (R186). -/
def State.isFinal (s : State) : Prop :=
  s.status = .running ∧ s.pc.toNat ≤ lastFetch ∧ s.fetchWord.toNat = 0x1000 + s.pc.toNat

/-- The n-row sprite at I drawn at (xp, yp) has a bit of 1 that lands on the pixel (r, c): inside the screen
under `SPRITE_CLIP`, else wrapped (R122, R123). -/
def State.spriteCovers (s : State) (xp yp n : Nat) (r : Fin 32) (c : Fin 64) : Prop :=
  ∃ j k : Nat, j < n ∧ k < 8 ∧ spriteBit (s.spriteByte j) k = true ∧
    (s.params.spriteClip = true → xp + k ≤ 63 ∧ yp + j ≤ 31) ∧
    (yp + j) % 32 = r.val ∧ (xp + k) % 64 = c.val

/-! ## What an instruction does, with its frame

Each of these says that `exec` answers a next state, what is new in it, and, by the equation for that state,
that every field not named there is as before. -/

/-- i changes V[x] alone, to b. -/
def SetsRegister (i : Instr) (s : State) (x : Reg) (b : Byte) : Prop :=
  ∃ t, exec i s = .next t ∧ t = { s with v := t.v } ∧ t.readV x = b ∧
    ∀ r, r ≠ x → t.readV r = s.readV r

/-- i changes V[x] and VF alone: VF to f, and V[x] to b unless x = 15, where the flag stands (R113). -/
def SetsRegisterThenFlag (i : Instr) (s : State) (x : Reg) (b f : Byte) : Prop :=
  ∃ t, exec i s = .next t ∧ t = { s with v := t.v } ∧ t.readV regF = f ∧
    (x ≠ regF → t.readV x = b) ∧ ∀ r, r ≠ x → r ≠ regF → t.readV r = s.readV r

/-- i changes PC alone, to the number a. -/
def SetsPc (i : Instr) (s : State) (a : Nat) : Prop :=
  ∃ t, exec i s = .next t ∧ t = { s with pc := t.pc } ∧ t.pc.toNat = a

/-- i changes I alone, to the number a. -/
def SetsIndex (i : Instr) (s : State) (a : Nat) : Prop :=
  ∃ t, exec i s = .next t ∧ t = { s with i := t.i } ∧ t.i.toNat = a

/-- i, executing in s with PC = PC0 + 2, raises the fault: PC is PC0 again, STATUS records the cause, PC0 and
i's word, and nothing else changes (R151, R152). -/
def RaisesFault (i : Instr) (s : State) (c : FaultCause) : Prop :=
  ∃ t, exec i s = .next t ∧ t = { s with pc := t.pc, status := t.status } ∧
    t.pc.toNat = (s.pc.toNat + 65534) % 65536 ∧ t.status = .faulted c t.pc (encode i)

/-- The registers an instruction may write: its destinations, and VF where it produces a flag (R10, R11). -/
def mayWriteV : Instr → Reg → Prop
  | .ldByte x _, r | .addByte x _, r | .ldReg x _, r | .rnd x _, r | .ldVxDt x, r | .ldVxK x, r => r = x
  | .orReg x _, r | .andReg x _, r | .xorReg x _, r | .addReg x _, r | .subReg x _, r
  | .shrReg x _, r | .subnReg x _, r | .shlReg x _, r => r = x ∨ r = regF
  | .drw _ _ _, r => r = regF
  | .load x, r => r ≤ x
  | .cls _, _ | .ret _, _ | .jp _, _ | .call _, _ | .seByte _ _, _ | .sneByte _ _, _ | .seReg _ _ _, _
  | .sneReg _ _ _, _ | .ldI _, _ | .jpV0 _, _ | .skp _ _, _ | .sknp _ _, _ | .ldDtVx _, _
  | .ldStVx _, _ | .addI _, _ | .ldF _, _ | .ldB _, _ | .store _, _ | .nop _, _ => False

end Sys2Proof.Machine
end

