-- ==== Sys2Proof/Certificates/Slice0/Obligations.lean ====
section
/-! DEFINITION. The statements for the provers, from the numbered rules of spec/. Each says of which rule it is
the reading. `SetsRegister`, `SetsPc` and the like (Safety.lean) conclude that `exec` answers a next state and
that nothing but what they name has changed. -/

open Sys2Proof Sys2Proof.Machine

/-! ## Encoding -/

/-- R56 and 95_test_vectors.md 2.8: words written out from the encodings decode to their instructions. -/
def Obligations.SpecWordsDecodeToTheirInstructions : Prop :=
  decode 0x0000 = .cls 0x00 ∧ decode 0x0FFE = .ret 0xFF ∧ decode 0x1ABC = .jp 0xABC ∧
  decode 0x512B = .seReg 1 2 0xB ∧ decode 0x6A02 = .ldByte 10 2 ∧ decode 0x8ABE = .shlReg 10 11 ∧
  decode 0xB123 = .jpV0 0x123 ∧ decode 0xC30F = .rnd 3 0x0F ∧ decode 0xD125 = .drw 1 2 5 ∧
  decode 0xE2A1 = .sknp 2 0xA ∧ decode 0xF333 = .ldB 3 ∧ decode 0x00FD = .nop 0x00FD ∧
  decode 0xF217 = .nop 0xF217

/-- R50 to R56: decoding the word of any well-formed instruction gives it back, every operand included. -/
def Obligations.DecodeOfEncodeIsTheInstruction : Prop :=
  ∀ i : Instr, i.wf = true → decode (encode i) = i

/-- R54 "decoding never fails": every word decodes to a well-formed instruction. That its word is w, so that no
bit is dropped, rests on the model's keeping the bits R57 ignores as an operand, for the opcode a fault records
(R21; log 14). -/
def Obligations.EveryWordDecodesAndEncodesBack : Prop :=
  ∀ w : Word, (decode w).wf = true ∧ encode (decode w) = w

/-- R56: a word selects a row iff `w AND mask = match`; the rows are mutually exclusive; a word that matches
none of the 34 is unmapped. -/
def Obligations.RowsAreSelectedByMaskAndMatch : Prop :=
  (∀ i : Instr, (∀ w, i ≠ .nop w) → i.row ∈ opRows) ∧
  (∀ (w : Word) (r : OpRow), r ∈ opRows → (w &&& r.mask = r.pattern ↔ (decode w).row = r)) ∧
  (∀ (w : Word) (r q : OpRow), r ∈ opRows → q ∈ opRows →
    w &&& r.mask = r.pattern → w &&& q.mask = q.pattern → r = q) ∧
  (∀ w : Word, (∀ r ∈ opRows, w &&& r.mask ≠ r.pattern) ↔ decode w = .nop w)

/-- R51, R52: where each format's fields stand, one clause per row, each row's operands at every value. -/
def Obligations.OperandsStandWhereTheFormatsSay : Prop :=
  ∀ (w : Word) (x y : Reg) (n : Fin 16) (k : Nibble) (kk g : Byte) (nnn : Addr),
    (decode w = .cls g ↔ w.toNat = g.toNat * 16) ∧
    (decode w = .ret g ↔ w.toNat = g.toNat * 16 + 0xE) ∧
    (decode w = .jp nnn ↔ w.toNat = 0x1000 + nnn.toNat) ∧
    (decode w = .call nnn ↔ w.toNat = 0x2000 + nnn.toNat) ∧
    (decode w = .seByte x kk ↔ w.toNat = 0x3000 + x.val * 256 + kk.toNat) ∧
    (decode w = .sneByte x kk ↔ w.toNat = 0x4000 + x.val * 256 + kk.toNat) ∧
    (decode w = .seReg x y k ↔ w.toNat = 0x5000 + x.val * 256 + y.val * 16 + k.toNat) ∧
    (decode w = .ldByte x kk ↔ w.toNat = 0x6000 + x.val * 256 + kk.toNat) ∧
    (decode w = .addByte x kk ↔ w.toNat = 0x7000 + x.val * 256 + kk.toNat) ∧
    (decode w = .ldReg x y ↔ w.toNat = 0x8000 + x.val * 256 + y.val * 16) ∧
    (decode w = .orReg x y ↔ w.toNat = 0x8001 + x.val * 256 + y.val * 16) ∧
    (decode w = .andReg x y ↔ w.toNat = 0x8002 + x.val * 256 + y.val * 16) ∧
    (decode w = .xorReg x y ↔ w.toNat = 0x8003 + x.val * 256 + y.val * 16) ∧
    (decode w = .addReg x y ↔ w.toNat = 0x8004 + x.val * 256 + y.val * 16) ∧
    (decode w = .subReg x y ↔ w.toNat = 0x8005 + x.val * 256 + y.val * 16) ∧
    (decode w = .shrReg x y ↔ w.toNat = 0x8006 + x.val * 256 + y.val * 16) ∧
    (decode w = .subnReg x y ↔ w.toNat = 0x8007 + x.val * 256 + y.val * 16) ∧
    (decode w = .shlReg x y ↔ w.toNat = 0x800E + x.val * 256 + y.val * 16) ∧
    (decode w = .sneReg x y k ↔ w.toNat = 0x9000 + x.val * 256 + y.val * 16 + k.toNat) ∧
    (decode w = .ldI nnn ↔ w.toNat = 0xA000 + nnn.toNat) ∧
    (decode w = .jpV0 nnn ↔ w.toNat = 0xB000 + nnn.toNat) ∧
    (decode w = .rnd x kk ↔ w.toNat = 0xC000 + x.val * 256 + kk.toNat) ∧
    (decode w = .drw x y n ↔ w.toNat = 0xD000 + x.val * 256 + y.val * 16 + n.val) ∧
    (decode w = .skp x k ↔ w.toNat = 0xE00E + x.val * 256 + k.toNat * 16) ∧
    (decode w = .sknp x k ↔ w.toNat = 0xE001 + x.val * 256 + k.toNat * 16) ∧
    (decode w = .ldVxDt x ↔ w.toNat = 0xF007 + x.val * 256) ∧
    (decode w = .ldVxK x ↔ w.toNat = 0xF00A + x.val * 256) ∧
    (decode w = .ldDtVx x ↔ w.toNat = 0xF015 + x.val * 256) ∧
    (decode w = .ldStVx x ↔ w.toNat = 0xF018 + x.val * 256) ∧
    (decode w = .addI x ↔ w.toNat = 0xF01E + x.val * 256) ∧
    (decode w = .ldF x ↔ w.toNat = 0xF029 + x.val * 256) ∧
    (decode w = .ldB x ↔ w.toNat = 0xF033 + x.val * 256) ∧
    (decode w = .store x ↔ w.toNat = 0xF055 + x.val * 256) ∧
    (decode w = .load x ↔ w.toNat = 0xF065 + x.val * 256)

/-- R33: two bytes are one word, the byte at the lower address in bits 15:8; shorter input is refused by name.
-/
def Obligations.BytesDecodeBigEndian : Prop :=
  (∀ (hi lo : Byte) (rest : List Byte), ∃ w : Word, w.toNat = hi.toNat * 256 + lo.toNat ∧
    decodeBytes (hi :: lo :: rest) = .ok (decode w, rest)) ∧
  (∀ b : Byte, decodeBytes [b] = .error .truncated) ∧ decodeBytes [] = .error .truncated

/-- R58, R80, R114: the unmapped words; by default they are no-ops, under `STRICT_DECODE` they fault (the spec's
decision D12). -/
def Obligations.UnmappedWordsAreNoOpsOrIllegal : Prop :=
  (∀ w : Word, decode w = .nop w ↔
    (w.toNat / 4096 = 0x0 ∧ w.toNat % 16 ∉ [0x0, 0xE]) ∨
    (w.toNat / 4096 = 0x8 ∧ w.toNat % 16 ∈ [0x8, 0x9, 0xA, 0xB, 0xC, 0xD, 0xF]) ∨
    (w.toNat / 4096 = 0xE ∧ w.toNat % 16 ∉ [0x1, 0xE]) ∨
    (w.toNat / 4096 = 0xF ∧ w.toNat % 256 ∉ [0x07, 0x0A, 0x15, 0x18, 0x1E, 0x29, 0x33, 0x55, 0x65])) ∧
  (∀ (w : Word) (s : State),
    (s.params.strictDecode = false → exec (.nop w) s = .next s) ∧
    (s.params.strictDecode = true → RaisesFault (.nop w) s .illegalInstruction))

/-! ## The cycle, the tick, the frame -/

/-- R55: when the machine runs, the frame has a cycle left and both bytes are in memory, the step is the
execution of the decoded instruction with PC advanced by 2; then OPCODE holds the word and a cycle of the frame
is used, unless the instruction faulted (the frame's count is the model's own, log 6; when OPCODE is written,
log 8). -/
def Obligations.StepRunsTheDecodedInstruction : Prop :=
  ∀ (s : State) (w : Word) (i : Instr), s.fetches →
    w.toNat = (s.readByte (BitVec.ofNat 12 s.pc.toNat)).toNat * 256 +
      (s.readByte (BitVec.ofNat 12 (s.pc.toNat + 1))).toNat →
    decode w = i →
    ∃ t, exec i { s with pc := s.pc + 2 } = .next t ∧
      (t.status = .running →
        step s = .next { t with opcode := w, cyclesLeft := s.cyclesLeft - 1 }) ∧
      (t.status ≠ .running → step s = .next t)

/-- R46: a fetch with PC > 0xFFE faults before reading anything, recording opcode 0 (that it faults and does not
wrap is the spec's decision D2). -/
def Obligations.FetchPastMemoryFaults : Prop :=
  ∀ s : State, s.status = .running → s.cyclesLeft ≠ 0 → 0xFFE < s.pc.toNat →
    step s = .next { s with status := .faulted .fetchRange s.pc 0 }

/-- R154: once the machine does not run, a step, cycle or tick, changes nothing (the spec's decision D22). -/
def Obligations.StoppedMachineNeverMoves : Prop :=
  ∀ s : State, s.status ≠ .running → ∀ n : Nat, Host.Core.run Sys2Proof.core n s = .next s

/-- R152: a step that leaves Running writes STATUS and changes nothing else: PC is PC0, OPCODE, SP, STACK,
memory, registers are as before (that a fatal condition is a write of STATUS is the spec's decision D1). -/
def Obligations.FaultsArePrecise : Prop :=
  ∀ s t : State, s.status = .running → step s = .next t → t.status ≠ .running →
    t = { s with status := t.status } ∧ ∃ c o, t.status = .faulted c s.pc o

/-- R58, R154, R155 and R150: no state stops the model; every step answers a next state. That a fault is a next
state is the model's reading (log 7). -/
def Obligations.EveryStepAnswersANextState : Prop :=
  ∀ s : State, (∃ t, step s = .next t) ∧ ∀ i : Instr, ∃ t, exec i s = .next t

/-- R160: the tick of a running machine at the end of a frame, from ST before the decrement, with the coming key
sample: the supplied one if there is one, else a free one; then a frame of IPT cycles begins (R164). The last
three fields are the model's own (log 5, 6, 15). -/
def Obligations.TickDoesWhatItSays : Prop :=
  ∀ s : State, s.status = .running → s.cyclesLeft = 0 →
    ∃ t, step s = .next t ∧
      t = { s with
            tone := t.tone, dt := t.dt, st := t.st, key := t.key, keysAhead := t.keysAhead,
            cyclesLeft := s.params.ipt, tickCount := s.tickCount + 1, display := some s.fb } ∧
      (t.tone = true ↔ s.st ≠ 0) ∧
      (s.dt = 0 → t.dt = 0) ∧ (s.dt ≠ 0 → t.dt.toNat + 1 = s.dt.toNat) ∧
      (s.st = 0 → t.st = 0) ∧ (s.st ≠ 0 → t.st.toNat + 1 = s.st.toNat) ∧
      (∀ k rest, s.keysAhead = k :: rest → t.key = k ∧ t.keysAhead = rest) ∧
      (s.keysAhead = [] → t.key = Config.keys s.tickCount ∧ t.keysAhead = [])

/-- R161, R163: on a running machine, after n ticks each timer is down by n, never below 0, and the tone at the
n-th of them was on iff ST was at least n: v ticks on for ST = v, off at tick v + 1 (sampled before the
decrement by the spec's decision D15). -/
def Obligations.TimersRunDownToZero : Prop :=
  ∀ (n : Nat) (s : State), s.status = .running →
    ((State.tick^[n]) s).dt.toNat = s.dt.toNat - n ∧ ((State.tick^[n]) s).st.toNat = s.st.toNat - n ∧
    (((State.tick^[n + 1]) s).tone = true ↔ n + 1 ≤ s.st.toNat)

/-- R164: in a frame IPT cycles run and then one tick. While the frame lasts no step is a tick, each uses one
cycle, and the host's side (KEY, TONE, the display) does not move; the step after the last cycle is the tick.
Cycles first is the spec's decision D14; the counts and the display are the model's own fields (log 5, log 6,
log 15). -/
def Obligations.FrameIsItsCyclesThenOneTick : Prop :=
  ∀ (s t : State) (n : Nat), s.status = .running → n ≤ s.cyclesLeft →
    Host.Core.run Sys2Proof.core n s = .next t → t.status = .running →
    t.cyclesLeft + n = s.cyclesLeft ∧ t.tickCount = s.tickCount ∧ t.key = s.key ∧ t.tone = s.tone ∧
      t.display = s.display ∧ (n = s.cyclesLeft → step t = .next t.tick ∧ t.tick.cyclesLeft = t.params.ipt)

/-! ## Reset -/

/-- R25, R31, R32: every piece of state the spec names, after reset with an empty ROM. The values of I, SP, KEY,
FB, OPCODE and TONE are the spec's decision D13 (log 9); the glyphs 1 to F are the default of its decision D30,
from general knowledge (log 12). -/
def Obligations.ResetLeavesTheStatedValues : Prop :=
  (∀ r, State.reset.readV r = 0) ∧ State.reset.pc = 0x0200 ∧ State.reset.i = 0 ∧
  (∀ k : Fin 16, State.reset.stack[k.val] = 0) ∧ State.reset.sp = 0 ∧
  State.reset.dt = 0 ∧ State.reset.st = 0 ∧ (∀ k : Fin 16, State.reset.key[k.val] = false) ∧
  (∀ r c, pixel State.reset.fb r c = false) ∧ State.reset.opcode = 0 ∧ State.reset.tone = false ∧
  State.reset.status = .running ∧ State.reset.randPos = 0 ∧
  (∀ a : Addr, (a.toNat < 0x050 ∨ 0x09F < a.toNat) → State.reset.readByte a = 0) ∧
  (List.range 80).map (fun k => State.reset.readByte (BitVec.ofNat 12 (0x050 + k))) =
    [0xF0, 0x90, 0x90, 0x90, 0xF0] ++ [0x20, 0x60, 0x20, 0x20, 0x70] ++
    [0xF0, 0x10, 0xF0, 0x80, 0xF0] ++ [0xF0, 0x10, 0xF0, 0x10, 0xF0] ++
    [0x90, 0x90, 0xF0, 0x10, 0x10] ++ [0xF0, 0x80, 0xF0, 0x10, 0xF0] ++
    [0xF0, 0x80, 0xF0, 0x90, 0xF0] ++ [0xF0, 0x10, 0x20, 0x40, 0x40] ++
    [0xF0, 0x90, 0xF0, 0x90, 0xF0] ++ [0xF0, 0x90, 0xF0, 0x10, 0xF0] ++
    [0xF0, 0x90, 0xF0, 0x90, 0x90] ++ [0xE0, 0x90, 0xE0, 0x90, 0xE0] ++
    [0xF0, 0x80, 0x80, 0x80, 0xF0] ++ [0xE0, 0x90, 0x90, 0x90, 0xE0] ++
    [0xF0, 0x80, 0xF0, 0x80, 0xF0] ++ [0xF0, 0x80, 0xF0, 0x80, 0x80]

/-- R183, R32 (and R180, R25): after reset with a ROM of at most 3584 bytes, byte i of the ROM is at 0x200 + i,
the bytes after it are 0, glyph 0 is at 0x050 whatever the configured glyphs, these are at 0x055 to 0x09F (the
spec's decision D30), and all else is as after `State.reset` but for what was supplied (the inputs and the frame
are the model's own fields, log 4, log 5, log 6). -/
def Obligations.RomIsLoadedVerbatim : Prop :=
  ∀ (p : Params) (glyphs : Vector Byte 75) (rom rand : List Byte) (keys : List Keypad),
    rom.length ≤ 3584 →
    ∃ t, State.resetWith p glyphs rom rand keys = t ∧
      t = { State.reset with
            params := p, cyclesLeft := p.ipt, randAhead := rand, keysAhead := keys, mem := t.mem } ∧
      [0x050, 0x051, 0x052, 0x053, 0x054].map (fun a => t.readByte a) = [0xF0, 0x90, 0x90, 0x90, 0xF0] ∧
      (∀ k : Fin 75, t.readByte (BitVec.ofNat 12 (0x055 + k.val)) = glyphs[k.val]) ∧
      ∀ a : Addr,
        (a.toNat < 0x050 → t.readByte a = 0) ∧
        (0x0A0 ≤ a.toNat → a.toNat < 0x200 → t.readByte a = 0) ∧
        (0x200 ≤ a.toNat → t.readByte a = rom.getD (a.toNat - 0x200) 0)

/-- R184: a ROM of more than 3584 bytes ends reset with STATUS = LoadError, none of it in memory, and the
machine never executes a cycle or a tick (the spec's decision D23). -/
def Obligations.RomTooLongIsALoadError : Prop :=
  ∀ (p : Params) (glyphs : Vector Byte 75) (rom rand : List Byte) (keys : List Keypad), 3584 < rom.length →
    (State.resetWith p glyphs rom rand keys).status = .loadError ∧
    (State.resetWith p glyphs rom rand keys).mem = (State.resetWith p glyphs [] rand keys).mem ∧
    ∀ n, Host.Core.run Sys2Proof.core n (State.resetWith p glyphs rom rand keys) =
      .next (State.resetWith p glyphs rom rand keys)

/-- R26: the invariant, of which the canonical memory and the frame position are the model's own (log 6, log
11), holds after every reset. -/
def Obligations.InvariantHoldsAfterReset : Prop :=
  State.reset.Inv ∧ ∀ (p : Params) (glyphs : Vector Byte 75) (rom rand : List Byte) (keys : List Keypad),
    (State.resetWith p glyphs rom rand keys).Inv

/-- R26, with R13, R46, R83, R88, R152: every step from a state of the invariant, reachable or not, keeps it. -/
def Obligations.EveryStepKeepsTheInvariant : Prop :=
  ∀ s t : State, s.Inv → step s = .next t → t.Inv

/-! ## Control flow -/

/-- R82. -/
def Obligations.JumpSetsPcToItsAddress : Prop :=
  ∀ (nnn : Addr) (s : State), SetsPc (.jp nnn) s nnn.toNat

/-- R88: V0 + nnn under `Q_JUMP_V0`, else V[x] + kk with x = nnn[11:8] and kk = nnn[7:0], modulo 65536; not
masked to 12 bits, the spec's decision D5. -/
def Obligations.JumpWithOffsetAddsItsRegister : Prop :=
  ∀ (nnn : Addr) (x : Reg) (kk : Byte) (s : State), nnn.toNat = x.val * 256 + kk.toNat →
    (s.params.qJumpV0 = true → SetsPc (.jpV0 nnn) s (((s.readV 0).toNat + nnn.toNat) % 65536)) ∧
    (s.params.qJumpV0 = false → SetsPc (.jpV0 nnn) s (((s.readV x).toNat + kk.toNat) % 65536))

/-- R83: a call pushes the advanced PC and jumps; with 16 frames held it faults (the spec's decision D6). -/
def Obligations.CallPushesTheReturnAddress : Prop :=
  ∀ (nnn : Addr) (s : State),
    (s.sp.val < 16 → ∃ t, exec (.call nnn) s = .next t ∧
      t = { s with stack := t.stack, sp := t.sp, pc := t.pc } ∧
      (∀ k : Fin 16, t.stack[k.val] = if k.val = s.sp.val then s.pc else s.stack[k.val]) ∧
      t.sp.val = s.sp.val + 1 ∧ t.pc.toNat = nnn.toNat) ∧
    (s.sp.val = 16 → RaisesFault (.call nnn) s .stackOverflow)

/-- R81: a return pops PC as it is and leaves the entry; with no frame held it faults (the spec's decision D6).
-/
def Obligations.ReturnPopsThePc : Prop :=
  ∀ (g : Byte) (s : State),
    (s.sp.val ≠ 0 → ∃ t, exec (.ret g) s = .next t ∧ t = { s with sp := t.sp, pc := t.pc } ∧
      t.sp.val + 1 = s.sp.val ∧ ∀ k : Fin 16, k.val = t.sp.val → t.pc = s.stack[k.val]) ∧
    (s.sp.val = 0 → RaisesFault (.ret g) s .stackUnderflow)

/-- R81 with R83 (R90): a return right after a call comes back to the address after the call, with SP,
registers, timers and memory as before the call; only the stale stack entry, at the SP of before the call, may
differ. -/
def Obligations.ReturnUndoesACall : Prop :=
  ∀ (nnn : Addr) (g : Byte) (s t : State), s.sp.val < 16 → exec (.call nnn) s = .next t →
    ∃ u, exec (.ret g) t = .next u ∧ u = { s with stack := u.stack } ∧
      ∀ k : Fin 16, k.val ≠ s.sp.val → u.stack[k.val] = s.stack[k.val]

/-- R84 to R87, R89: the four register skips; a taken skip is PC + 2 modulo 65536. -/
def Obligations.SkipsAdvancePcIffTheComparisonHolds : Prop :=
  ∀ (x y : Reg) (kk : Byte) (g : Nibble) (s : State),
    SetsPc (.seByte x kk) s (if s.readV x = kk then (s.pc.toNat + 2) % 65536 else s.pc.toNat) ∧
    SetsPc (.sneByte x kk) s (if s.readV x = kk then s.pc.toNat else (s.pc.toNat + 2) % 65536) ∧
    SetsPc (.seReg x y g) s (if s.readV x = s.readV y then (s.pc.toNat + 2) % 65536 else s.pc.toNat) ∧
    SetsPc (.sneReg x y g) s (if s.readV x = s.readV y then s.pc.toNat else (s.pc.toNat + 2) % 65536)

/-! ## Loads and arithmetic -/

/-- R100, R101, R102: loads and the flagless add, VF as an ordinary destination. -/
def Obligations.LoadsAndByteAddWriteOneRegister : Prop :=
  ∀ (x y : Reg) (kk : Byte) (s : State),
    SetsRegister (.ldByte x kk) s x kk ∧
    SetsRegister (.addByte x kk) s x (BitVec.ofNat 8 (((s.readV x).toNat + kk.toNat) % 256)) ∧
    SetsRegister (.ldReg x y) s x (s.readV y)

/-- R103, R104, R105: bit by bit, with VF cleared last under `Q_VF_RESET` and untouched otherwise. -/
def Obligations.LogicClearsTheFlagOnlyUnderItsQuirk : Prop :=
  ∀ (x y : Reg) (s : State),
    (s.params.qVfReset = true →
      SetsRegisterThenFlag (.orReg x y) s x (s.readV x ||| s.readV y) 0 ∧
      SetsRegisterThenFlag (.andReg x y) s x (s.readV x &&& s.readV y) 0 ∧
      SetsRegisterThenFlag (.xorReg x y) s x (s.readV x ^^^ s.readV y) 0) ∧
    (s.params.qVfReset = false →
      SetsRegister (.orReg x y) s x (s.readV x ||| s.readV y) ∧
      SetsRegister (.andReg x y) s x (s.readV x &&& s.readV y) ∧
      SetsRegister (.xorReg x y) s x (s.readV x ^^^ s.readV y))

/-- R106 (R112, R113): the sum modulo 256 and the carry, both from the original operands. -/
def Obligations.AddSetsTheCarry : Prop :=
  ∀ (x y : Reg) (s : State),
    SetsRegisterThenFlag (.addReg x y) s x
      (BitVec.ofNat 8 (((s.readV x).toNat + (s.readV y).toNat) % 256))
      (if 255 < (s.readV x).toNat + (s.readV y).toNat then 1 else 0)

/-- R107, R109 (R112, R113): the difference modulo 256 and NOT borrow, both from the original operands; that the
flag too is computed from these when x = 15 is the spec's decision D11 (log 17). -/
def Obligations.SubtractsSetNotBorrow : Prop :=
  ∀ (x y : Reg) (s : State),
    SetsRegisterThenFlag (.subReg x y) s x
      (BitVec.ofNat 8 (((s.readV x).toNat + 256 - (s.readV y).toNat) % 256))
      (if (s.readV y).toNat ≤ (s.readV x).toNat then 1 else 0) ∧
    SetsRegisterThenFlag (.subnReg x y) s x
      (BitVec.ofNat 8 (((s.readV y).toNat + 256 - (s.readV x).toNat) % 256))
      (if (s.readV x).toNat ≤ (s.readV y).toNat then 1 else 0)

/-- R108, R110: the shifts by one of Vy under `Q_SHIFT_COPY`, else of Vx; VF the bit shifted out. -/
def Obligations.ShiftsSetTheBitShiftedOut : Prop :=
  ∀ (x y : Reg) (s : State) (a : Byte),
    a = (if s.params.qShiftCopy = true then s.readV y else s.readV x) →
    SetsRegisterThenFlag (.shrReg x y) s x (a >>> 1) (if a.getLsbD 0 then 1 else 0) ∧
    SetsRegisterThenFlag (.shlReg x y) s x (a <<< 1) (if a.getLsbD 7 then 1 else 0)

/-- R111: the next byte of the stream under the mask, one byte consumed; the byte is the supplied one if there
is one, else the free value at the position (log 4; the stream is open by the spec's decision D16). -/
def Obligations.RandomTakesOneByteOfTheStream : Prop :=
  ∀ (x : Reg) (kk : Byte) (s : State),
    ∃ t, exec (.rnd x kk) s = .next t ∧
      t = { s with v := t.v, randPos := s.randPos + 1, randAhead := t.randAhead } ∧
      (∀ r, r ≠ x → t.readV r = s.readV r) ∧
      (∀ b rest, s.randAhead = b :: rest → t.readV x = b &&& kk ∧ t.randAhead = rest) ∧
      (s.randAhead = [] → t.readV x = Config.rand s.randPos &&& kk ∧ t.randAhead = [])

/-! ## Display -/

/-- R120: every pixel off afterwards, whatever the ignored bits, and nothing else changed. -/
def Obligations.ClearTurnsEveryPixelOff : Prop :=
  ∀ (g : Byte) (s : State), ∃ t, exec (.cls g) s = .next t ∧ t = { s with fb := t.fb } ∧
    ∀ r c, pixel t.fb r c = false

/-- R121, R122, R123: exactly the pixels the sprite covers are inverted, the start being (Vx mod 64, Vy mod 32)
from the registers as they were; VF is 1 iff one of them was on, else 0, also for n = 0 and for x or y = 15 (the
spec's decisions D9 for the edges, D8, D10). -/
def Obligations.DrawInvertsExactlyTheCoveredPixels : Prop :=
  ∀ (x y : Reg) (n : Fin 16) (s : State),
    ∃ t, exec (.drw x y n) s = .next t ∧ t = { s with v := t.v, fb := t.fb } ∧
      (∀ r, r ≠ regF → t.readV r = s.readV r) ∧
      (∀ r c, pixel t.fb r c ≠ pixel s.fb r c ↔
        s.spriteCovers ((s.readV x).toNat % 64) ((s.readV y).toNat % 32) n.val r c) ∧
      (t.readV regF = 1 ∨ t.readV regF = 0) ∧
      (t.readV regF = 1 ↔ ∃ r c, pixel s.fb r c = true ∧
        s.spriteCovers ((s.readV x).toNat % 64) ((s.readV y).toNat % 32) n.val r c)

/-- R121 and its corner case "drawing the same sprite twice": the framebuffer is as before, and the second draw
sets VF iff the first turned a pixel on; where the first met no pixel that was on, that is iff the sprite has a
1 bit that was drawn (R121 states the last without the condition that its pseudocode needs; log 17). The
coordinates are not in VF, which the first draw writes. -/
def Obligations.DrawingTwiceRestoresTheScreen : Prop :=
  ∀ (x y : Reg) (n : Fin 16) (s t : State), x ≠ regF → y ≠ regF → exec (.drw x y n) s = .next t →
    ∃ u, exec (.drw x y n) t = .next u ∧ u = { s with v := u.v } ∧
      (∀ r, r ≠ regF → u.readV r = s.readV r) ∧
      (u.readV regF = 1 ↔ ∃ r c, pixel s.fb r c = false ∧
        s.spriteCovers ((s.readV x).toNat % 64) ((s.readV y).toNat % 32) n.val r c) ∧
      (t.readV regF = 0 → (u.readV regF = 1 ↔ ∃ r c,
        s.spriteCovers ((s.readV x).toNat % 64) ((s.readV y).toNat % 32) n.val r c))

/-! ## Keypad and timers -/

/-- R130, R131, R136: the key skips; an index above 15 faults and is not masked (the spec's decision D7). -/
def Obligations.KeySkipsTestTheKeyOrFault : Prop :=
  ∀ (x : Reg) (g : Nibble) (s : State),
    (∀ k : Fin 16, (s.readV x).toNat = k.val →
      SetsPc (.skp x g) s (if s.key[k.val] = true then (s.pc.toNat + 2) % 65536 else s.pc.toNat) ∧
      SetsPc (.sknp x g) s (if s.key[k.val] = true then s.pc.toNat else (s.pc.toNat + 2) % 65536)) ∧
    (15 < (s.readV x).toNat →
      RaisesFault (.skp x g) s .keyRange ∧ RaisesFault (.sknp x g) s .keyRange)

/-- R133: the least pressed key goes to Vx; with none pressed PC goes back by 2. -/
def Obligations.KeyWaitTakesTheLeastKeyOrRewinds : Prop :=
  ∀ (x : Reg) (s : State),
    (∀ k : Fin 16, s.key[k.val] = true → (∀ j : Fin 16, j < k → s.key[j.val] = false) →
      SetsRegister (.ldVxK x) s x (BitVec.ofNat 8 k.val)) ∧
    ((∀ k : Fin 16, s.key[k.val] = false) → SetsPc (.ldVxK x) s ((s.pc.toNat + 65534) % 65536))

/-- R133, R170: with no key pressed the cycle of a key wait changes nothing at all, OPCODE aside, except that it
is one of the frame's cycles (the model's own field, log 6). -/
def Obligations.KeyWaitWithNoKeyIsAnIdleCycle : Prop :=
  ∀ (x : Reg) (s : State), s.fetches → decode s.fetchWord = .ldVxK x →
    (∀ k : Fin 16, s.key[k.val] = false) →
    step s = .next { s with opcode := s.fetchWord, cyclesLeft := s.cyclesLeft - 1 }

/-- R132, R134, R135: each timer instruction touches its own timer only. -/
def Obligations.TimerInstructionsMoveOneByte : Prop :=
  ∀ (x : Reg) (s : State),
    SetsRegister (.ldVxDt x) s x s.dt ∧
    (∃ t, exec (.ldDtVx x) s = .next t ∧ t = { s with dt := t.dt } ∧ t.dt = s.readV x) ∧
    (∃ t, exec (.ldStVx x) s = .next t ∧ t = { s with st := t.st } ∧ t.st = s.readV x)

/-! ## Index and memory -/

/-- R140, R141, R142: the three writers of I; the add wraps to 12 bits and sets no flag. That the font address
uses V[x] whole is the spec's decision D21 (log 17). -/
def Obligations.IndexInstructionsSetI : Prop :=
  ∀ (x : Reg) (nnn : Addr) (s : State),
    SetsIndex (.ldI nnn) s nnn.toNat ∧
    SetsIndex (.addI x) s ((s.i.toNat + (s.readV x).toNat) % 4096) ∧
    SetsIndex (.ldF x) s (0x050 + 5 * (s.readV x).toNat)

/-- R143: the three decimal digits at EA(0), EA(1), EA(2), every other byte as before, I unchanged. That these
addresses wrap past 0xFFF (R37) is the spec's decision D4 (log 17). Reading back what was stored needs memory in
canonical form (log 11), which every step keeps. -/
def Obligations.DecimalStoreWritesThreeDigits : Prop :=
  ∀ (x : Reg) (s : State), ∃ t, exec (.ldB x) s = .next t ∧ t = { s with mem := t.mem } ∧
    (∀ a : Addr, (∀ k, k < 3 → a ≠ s.ea k) → t.readByte a = s.readByte a) ∧
    (s.mem.wf → (t.readByte (s.ea 0)).toNat = (s.readV x).toNat / 100 ∧
      (t.readByte (s.ea 1)).toNat = (s.readV x).toNat / 10 % 10 ∧
      (t.readByte (s.ea 2)).toNat = (s.readV x).toNat % 10)

/-- R144: V0 to V[x] at EA(0) to EA(x), I as before the instruction, every other byte as before; then I past
them under `Q_MEM_INC`. That these addresses wrap past 0xFFF (R37) is the spec's decision D4, and that the
source's "Vx" is the index x its resolution C4 (log 17). Reading back what was stored needs memory in canonical
form (log 11), which every step keeps. -/
def Obligations.BulkStoreWritesTheRegisters : Prop :=
  ∀ (x : Reg) (s : State), ∃ t, exec (.store x) s = .next t ∧ t = { s with mem := t.mem, i := t.i } ∧
    (s.params.qMemInc = true → t.i.toNat = (s.i.toNat + x.val + 1) % 4096) ∧
    (s.params.qMemInc = false → t.i = s.i) ∧
    (∀ a : Addr, (∀ k, k ≤ x.val → a ≠ s.ea k) → t.readByte a = s.readByte a) ∧
    (s.mem.wf → ∀ r : Reg, r ≤ x → t.readByte (s.ea r.val) = s.readV r)

/-- R145: V0 to V[x] from EA(0) to EA(x), the registers above x as before; then I past them under `Q_MEM_INC`;
memory unchanged. That these addresses wrap past 0xFFF (R37) is the spec's decision D4, and that the source's
"Vx" is the index x its resolution C4 (log 17). -/
def Obligations.BulkLoadReadsTheRegisters : Prop :=
  ∀ (x : Reg) (s : State), ∃ t, exec (.load x) s = .next t ∧ t = { s with v := t.v, i := t.i } ∧
    (s.params.qMemInc = true → t.i.toNat = (s.i.toNat + x.val + 1) % 4096) ∧
    (s.params.qMemInc = false → t.i = s.i) ∧
    (∀ r : Reg, r ≤ x → t.readV r = s.readByte (s.ea r.val)) ∧
    (∀ r : Reg, x < r → t.readV r = s.readV r)

/-- R144 with R145 (the source's round trip, S5): a load from the same I, whatever the registers have become,
brings back the values stored. -/
def Obligations.StoreThenLoadBringsTheRegistersBack : Prop :=
  ∀ (x : Reg) (s t u : State), s.mem.wf → exec (.store x) s = .next t → u.mem = t.mem → u.i = s.i →
    ∃ w, exec (.load x) u = .next w ∧ ∀ r : Reg, r ≤ x → w.readV r = s.readV r

/-- R44: whatever byte a store writes over the next instruction, one of its two bytes or both, is what the next
fetch reads there, and a byte no store touched reads as before: no prefetch. Every Fx55 and Fx33, at every place
of I; PC + 2 is at most 0xFFE, so that there is a next fetch. That the addresses wrap past 0xFFF is the spec's
decision D4 (log 17); canonical memory is the model's own (log 11). -/
def Obligations.StoreIsSeenByTheNextFetch : Prop :=
  ∀ (s t : State) (x : Reg) (stored : List Nat),
    s.fetches → s.pc.toNat ≤ 0xFFC → s.mem.wf → step s = .next t →
    (decode s.fetchWord = .store x ∧
        stored = ((List.finRange 16).take (x.val + 1)).map (fun r => (s.readV r).toNat) ∨
      decode s.fetchWord = .ldB x ∧
        stored = [(s.readV x).toNat / 100, (s.readV x).toNat / 10 % 10, (s.readV x).toNat % 10]) →
    t.pc.toNat = s.pc.toNat + 2 ∧
    (∀ k b, stored[k]? = some b →
      ((s.i.toNat + k) % 4096 = s.pc.toNat + 2 → t.fetchWord.toNat / 256 = b) ∧
      ((s.i.toNat + k) % 4096 = s.pc.toNat + 3 → t.fetchWord.toNat % 256 = b)) ∧
    ((∀ k, k < stored.length → (s.i.toNat + k) % 4096 ≠ s.pc.toNat + 2) →
      t.fetchWord.toNat / 256 = (s.readByte (BitVec.ofNat 12 (s.pc.toNat + 2))).toNat) ∧
    ((∀ k, k < stored.length → (s.i.toNat + k) % 4096 ≠ s.pc.toNat + 3) →
      t.fetchWord.toNat % 256 = (s.readByte (BitVec.ofNat 12 (s.pc.toNat + 3))).toNat)

/-- 20_memory.md R30 with log 11: two canonical memories in which every address reads the same are the same
data. -/
def Obligations.CanonicalMemoriesAreTheirReads : Prop :=
  ∀ m n : Memory, m.wf → n.wf → (∀ a : Addr, m.read a = n.read a) → m = n

/-! ## Rules of the whole machine -/

/-- R10, R11: an instruction changes no register but its destinations and, where it produces a flag, VF. -/
def Obligations.OnlyNamedRegistersAreWritten : Prop :=
  ∀ (i : Instr) (s t : State) (r : Reg), exec i s = .next t → t.readV r ≠ s.readV r → mayWriteV i r

/-- R13, R146: who writes I, and every write stores a value below 4096; the tick does not touch I. -/
def Obligations.IndexWritersKeepItBelow4096 : Prop :=
  (∀ (i : Instr) (s t : State), exec i s = .next t → t.i ≠ s.i → t.i.toNat < 4096 ∧
    ((∃ nnn, i = .ldI nnn) ∨ (∃ x, i = .addI x) ∨ (∃ x, i = .ldF x) ∨
      (s.params.qMemInc = true ∧ ((∃ x, i = .store x) ∨ ∃ x, i = .load x)))) ∧
  (∀ s : State, s.tick.i = s.i)

/-- R14, R15, R19, R30: only calls and returns move the stack, only CLS and DRW the framebuffer, only LD B and
LD [I] memory; the tick moves none of them. -/
def Obligations.StackScreenAndMemoryHaveTheirWriters : Prop :=
  (∀ (i : Instr) (s t : State), exec i s = .next t →
    (t.stack ≠ s.stack → ∃ nnn, i = .call nnn) ∧
    (t.sp ≠ s.sp → (∃ nnn, i = .call nnn) ∨ ∃ g, i = .ret g) ∧
    (t.fb ≠ s.fb → (∃ g, i = .cls g) ∨ ∃ x y n, i = .drw x y n) ∧
    (t.mem ≠ s.mem → (∃ x, i = .ldB x) ∨ ∃ x, i = .store x)) ∧
  (∀ s : State, s.tick.stack = s.stack ∧ s.tick.sp = s.sp ∧ s.tick.fb = s.fb ∧ s.tick.mem = s.mem)

/-- R16, R17, R18, R22, R23, R39: no instruction moves a timer but its own writer, nor KEY, TONE, the
parameters; nor the latch and the model's frame position, ticks, samples and display. -/
def Obligations.HostSideMovesOnlyAtTheTick : Prop :=
  ∀ (i : Instr) (s t : State), exec i s = .next t →
    (t.dt ≠ s.dt → ∃ x, i = .ldDtVx x) ∧ (t.st ≠ s.st → ∃ x, i = .ldStVx x) ∧
    t.key = s.key ∧ t.tone = s.tone ∧ t.params = s.params ∧ t.opcode = s.opcode ∧
    t.cyclesLeft = s.cyclesLeft ∧ t.tickCount = s.tickCount ∧ t.keysAhead = s.keysAhead ∧
    t.display = s.display

/-- R24: the position in the stream advances by one byte per executed Cxkk and by nothing else, the tick
included. -/
def Obligations.OnlyRandomConsumesTheStream : Prop :=
  (∀ (i : Instr) (s t : State), exec i s = .next t →
    ((∃ x kk, i = .rnd x kk) → t.randPos = s.randPos + 1 ∧ t.randAhead = s.randAhead.tail) ∧
    ((∀ x kk, i ≠ .rnd x kk) → t.randPos = s.randPos ∧ t.randAhead = s.randAhead)) ∧
  (∀ s : State, s.tick.randPos = s.randPos ∧ s.tick.randAhead = s.randAhead)

/-- R151, R153: which instructions fault, and the one cause of each; every other leaves STATUS alone (the spec's
decisions D1, D6, D7, D12). -/
def Obligations.EachFaultHasItsInstructions : Prop :=
  ∀ (i : Instr) (s t : State), exec i s = .next t → t.status ≠ s.status →
    ((∃ nnn, i = .call nnn) ∧ s.sp.val = 16 ∧ t.status = .faulted .stackOverflow t.pc (encode i)) ∨
    ((∃ g, i = .ret g) ∧ s.sp.val = 0 ∧ t.status = .faulted .stackUnderflow t.pc (encode i)) ∨
    ((∃ x g, (i = .skp x g ∨ i = .sknp x g) ∧ 15 < (s.readV x).toNat) ∧
      t.status = .faulted .keyRange t.pc (encode i)) ∨
    ((∃ w, i = .nop w) ∧ s.params.strictDecode = true ∧
      t.status = .faulted .illegalInstruction t.pc (encode i))

/-- R12: on a running machine an instruction that is not a jump, call, return, skip or key wait, and does not
fault, leaves PC at the address after it. -/
def Obligations.OnlyControlFlowMovesPc : Prop :=
  ∀ (i : Instr) (s t : State), s.status = .running → exec i s = .next t → t.pc ≠ s.pc →
    t.status ≠ .running ∨ (∃ nnn, i = .jp nnn) ∨ (∃ nnn, i = .call nnn) ∨ (∃ nnn, i = .jpV0 nnn) ∨
    (∃ g, i = .ret g) ∨ (∃ x kk, i = .seByte x kk) ∨ (∃ x kk, i = .sneByte x kk) ∨
    (∃ x y g, i = .seReg x y g) ∨ (∃ x y g, i = .sneReg x y g) ∨ (∃ x g, i = .skp x g) ∨
    (∃ x g, i = .sknp x g) ∨ (∃ x, i = .ldVxK x)

/-- R17: no instruction reads ST (nor TONE, nor the presented picture): two states that differ there alone
execute alike, and differ there alone afterwards. -/
def Obligations.SoundTimerIsNeverObserved : Prop :=
  ∀ (i : Instr) (s t : State) (st : Byte) (tone : Bool) (d : Option Framebuffer),
    exec i s = .next t → (∀ x, i ≠ .ldStVx x) →
    exec i { s with st := st, tone := tone, display := d } =
      .next { t with st := st, tone := tone, display := d }

/-- R186: from a final state every step, cycle or tick, leads to a final state with V, PC, I, STACK, SP, MEM, FB
and the position in the stream unchanged (final states are the spec's decision D19). -/
def Obligations.FinalStatesStayFinal : Prop :=
  ∀ s t : State, s.isFinal → step s = .next t →
    t.isFinal ∧ t.v = s.v ∧ t.pc = s.pc ∧ t.i = s.i ∧ t.stack = s.stack ∧ t.sp = s.sp ∧ t.mem = s.mem ∧
      t.fb = s.fb ∧ t.randPos = s.randPos
end

