-- ==== Sys2Proof/Laws/State.lean ====
section
/-! SUPPORT. One lemma per field per update of the state, and what the accessors read after an update that
does not touch what they read. -/

namespace Sys2Proof.Machine

variable (s : State)

/-! ## writeV -/

@[simp] theorem writeV_v (r : Reg) (b : Byte) : (s.writeV r b).v = s.v.set r.val b r.isLt := rfl
@[simp] theorem writeV_pc (r : Reg) (b : Byte) : (s.writeV r b).pc = s.pc := rfl
@[simp] theorem writeV_i (r : Reg) (b : Byte) : (s.writeV r b).i = s.i := rfl
@[simp] theorem writeV_stack (r : Reg) (b : Byte) : (s.writeV r b).stack = s.stack := rfl
@[simp] theorem writeV_sp (r : Reg) (b : Byte) : (s.writeV r b).sp = s.sp := rfl
@[simp] theorem writeV_dt (r : Reg) (b : Byte) : (s.writeV r b).dt = s.dt := rfl
@[simp] theorem writeV_st (r : Reg) (b : Byte) : (s.writeV r b).st = s.st := rfl
@[simp] theorem writeV_key (r : Reg) (b : Byte) : (s.writeV r b).key = s.key := rfl
@[simp] theorem writeV_fb (r : Reg) (b : Byte) : (s.writeV r b).fb = s.fb := rfl
@[simp] theorem writeV_mem (r : Reg) (b : Byte) : (s.writeV r b).mem = s.mem := rfl
@[simp] theorem writeV_opcode (r : Reg) (b : Byte) : (s.writeV r b).opcode = s.opcode := rfl
@[simp] theorem writeV_status (r : Reg) (b : Byte) : (s.writeV r b).status = s.status := rfl
@[simp] theorem writeV_tone (r : Reg) (b : Byte) : (s.writeV r b).tone = s.tone := rfl
@[simp] theorem writeV_randPos (r : Reg) (b : Byte) : (s.writeV r b).randPos = s.randPos := rfl
@[simp] theorem writeV_params (r : Reg) (b : Byte) : (s.writeV r b).params = s.params := rfl
@[simp] theorem writeV_cyclesLeft (r : Reg) (b : Byte) : (s.writeV r b).cyclesLeft = s.cyclesLeft := rfl
@[simp] theorem writeV_tickCount (r : Reg) (b : Byte) : (s.writeV r b).tickCount = s.tickCount := rfl
@[simp] theorem writeV_randAhead (r : Reg) (b : Byte) : (s.writeV r b).randAhead = s.randAhead := rfl
@[simp] theorem writeV_keysAhead (r : Reg) (b : Byte) : (s.writeV r b).keysAhead = s.keysAhead := rfl
@[simp] theorem writeV_display (r : Reg) (b : Byte) : (s.writeV r b).display = s.display := rfl
@[simp] theorem writeV_readByte (r : Reg) (b : Byte) (q : Addr) : (s.writeV r b).readByte q = s.readByte q := rfl
@[simp] theorem writeV_ea (r : Reg) (b : Byte) (q : Nat) : (s.writeV r b).ea q = s.ea q := rfl

/-! ## setPc -/

@[simp] theorem setPc_v (a : Word) : (s.setPc a).v = s.v := rfl
@[simp] theorem setPc_pc (a : Word) : (s.setPc a).pc = a := rfl
@[simp] theorem setPc_i (a : Word) : (s.setPc a).i = s.i := rfl
@[simp] theorem setPc_stack (a : Word) : (s.setPc a).stack = s.stack := rfl
@[simp] theorem setPc_sp (a : Word) : (s.setPc a).sp = s.sp := rfl
@[simp] theorem setPc_dt (a : Word) : (s.setPc a).dt = s.dt := rfl
@[simp] theorem setPc_st (a : Word) : (s.setPc a).st = s.st := rfl
@[simp] theorem setPc_key (a : Word) : (s.setPc a).key = s.key := rfl
@[simp] theorem setPc_fb (a : Word) : (s.setPc a).fb = s.fb := rfl
@[simp] theorem setPc_mem (a : Word) : (s.setPc a).mem = s.mem := rfl
@[simp] theorem setPc_opcode (a : Word) : (s.setPc a).opcode = s.opcode := rfl
@[simp] theorem setPc_status (a : Word) : (s.setPc a).status = s.status := rfl
@[simp] theorem setPc_tone (a : Word) : (s.setPc a).tone = s.tone := rfl
@[simp] theorem setPc_randPos (a : Word) : (s.setPc a).randPos = s.randPos := rfl
@[simp] theorem setPc_params (a : Word) : (s.setPc a).params = s.params := rfl
@[simp] theorem setPc_cyclesLeft (a : Word) : (s.setPc a).cyclesLeft = s.cyclesLeft := rfl
@[simp] theorem setPc_tickCount (a : Word) : (s.setPc a).tickCount = s.tickCount := rfl
@[simp] theorem setPc_randAhead (a : Word) : (s.setPc a).randAhead = s.randAhead := rfl
@[simp] theorem setPc_keysAhead (a : Word) : (s.setPc a).keysAhead = s.keysAhead := rfl
@[simp] theorem setPc_display (a : Word) : (s.setPc a).display = s.display := rfl
@[simp] theorem setPc_readV (a : Word) (q : Reg) : (s.setPc a).readV q = s.readV q := rfl
@[simp] theorem setPc_readByte (a : Word) (q : Addr) : (s.setPc a).readByte q = s.readByte q := rfl
@[simp] theorem setPc_ea (a : Word) (q : Nat) : (s.setPc a).ea q = s.ea q := rfl

/-! ## setI -/

@[simp] theorem setI_v (a : Word) : (s.setI a).v = s.v := rfl
@[simp] theorem setI_pc (a : Word) : (s.setI a).pc = s.pc := rfl
@[simp] theorem setI_i (a : Word) : (s.setI a).i = a := rfl
@[simp] theorem setI_stack (a : Word) : (s.setI a).stack = s.stack := rfl
@[simp] theorem setI_sp (a : Word) : (s.setI a).sp = s.sp := rfl
@[simp] theorem setI_dt (a : Word) : (s.setI a).dt = s.dt := rfl
@[simp] theorem setI_st (a : Word) : (s.setI a).st = s.st := rfl
@[simp] theorem setI_key (a : Word) : (s.setI a).key = s.key := rfl
@[simp] theorem setI_fb (a : Word) : (s.setI a).fb = s.fb := rfl
@[simp] theorem setI_mem (a : Word) : (s.setI a).mem = s.mem := rfl
@[simp] theorem setI_opcode (a : Word) : (s.setI a).opcode = s.opcode := rfl
@[simp] theorem setI_status (a : Word) : (s.setI a).status = s.status := rfl
@[simp] theorem setI_tone (a : Word) : (s.setI a).tone = s.tone := rfl
@[simp] theorem setI_randPos (a : Word) : (s.setI a).randPos = s.randPos := rfl
@[simp] theorem setI_params (a : Word) : (s.setI a).params = s.params := rfl
@[simp] theorem setI_cyclesLeft (a : Word) : (s.setI a).cyclesLeft = s.cyclesLeft := rfl
@[simp] theorem setI_tickCount (a : Word) : (s.setI a).tickCount = s.tickCount := rfl
@[simp] theorem setI_randAhead (a : Word) : (s.setI a).randAhead = s.randAhead := rfl
@[simp] theorem setI_keysAhead (a : Word) : (s.setI a).keysAhead = s.keysAhead := rfl
@[simp] theorem setI_display (a : Word) : (s.setI a).display = s.display := rfl
@[simp] theorem setI_readV (a : Word) (q : Reg) : (s.setI a).readV q = s.readV q := rfl
@[simp] theorem setI_readByte (a : Word) (q : Addr) : (s.setI a).readByte q = s.readByte q := rfl

/-! ## setDt -/

@[simp] theorem setDt_v (b : Byte) : (s.setDt b).v = s.v := rfl
@[simp] theorem setDt_pc (b : Byte) : (s.setDt b).pc = s.pc := rfl
@[simp] theorem setDt_i (b : Byte) : (s.setDt b).i = s.i := rfl
@[simp] theorem setDt_stack (b : Byte) : (s.setDt b).stack = s.stack := rfl
@[simp] theorem setDt_sp (b : Byte) : (s.setDt b).sp = s.sp := rfl
@[simp] theorem setDt_dt (b : Byte) : (s.setDt b).dt = b := rfl
@[simp] theorem setDt_st (b : Byte) : (s.setDt b).st = s.st := rfl
@[simp] theorem setDt_key (b : Byte) : (s.setDt b).key = s.key := rfl
@[simp] theorem setDt_fb (b : Byte) : (s.setDt b).fb = s.fb := rfl
@[simp] theorem setDt_mem (b : Byte) : (s.setDt b).mem = s.mem := rfl
@[simp] theorem setDt_opcode (b : Byte) : (s.setDt b).opcode = s.opcode := rfl
@[simp] theorem setDt_status (b : Byte) : (s.setDt b).status = s.status := rfl
@[simp] theorem setDt_tone (b : Byte) : (s.setDt b).tone = s.tone := rfl
@[simp] theorem setDt_randPos (b : Byte) : (s.setDt b).randPos = s.randPos := rfl
@[simp] theorem setDt_params (b : Byte) : (s.setDt b).params = s.params := rfl
@[simp] theorem setDt_cyclesLeft (b : Byte) : (s.setDt b).cyclesLeft = s.cyclesLeft := rfl
@[simp] theorem setDt_tickCount (b : Byte) : (s.setDt b).tickCount = s.tickCount := rfl
@[simp] theorem setDt_randAhead (b : Byte) : (s.setDt b).randAhead = s.randAhead := rfl
@[simp] theorem setDt_keysAhead (b : Byte) : (s.setDt b).keysAhead = s.keysAhead := rfl
@[simp] theorem setDt_display (b : Byte) : (s.setDt b).display = s.display := rfl
@[simp] theorem setDt_readV (b : Byte) (q : Reg) : (s.setDt b).readV q = s.readV q := rfl
@[simp] theorem setDt_readByte (b : Byte) (q : Addr) : (s.setDt b).readByte q = s.readByte q := rfl
@[simp] theorem setDt_ea (b : Byte) (q : Nat) : (s.setDt b).ea q = s.ea q := rfl

/-! ## setSt -/

@[simp] theorem setSt_v (b : Byte) : (s.setSt b).v = s.v := rfl
@[simp] theorem setSt_pc (b : Byte) : (s.setSt b).pc = s.pc := rfl
@[simp] theorem setSt_i (b : Byte) : (s.setSt b).i = s.i := rfl
@[simp] theorem setSt_stack (b : Byte) : (s.setSt b).stack = s.stack := rfl
@[simp] theorem setSt_sp (b : Byte) : (s.setSt b).sp = s.sp := rfl
@[simp] theorem setSt_dt (b : Byte) : (s.setSt b).dt = s.dt := rfl
@[simp] theorem setSt_st (b : Byte) : (s.setSt b).st = b := rfl
@[simp] theorem setSt_key (b : Byte) : (s.setSt b).key = s.key := rfl
@[simp] theorem setSt_fb (b : Byte) : (s.setSt b).fb = s.fb := rfl
@[simp] theorem setSt_mem (b : Byte) : (s.setSt b).mem = s.mem := rfl
@[simp] theorem setSt_opcode (b : Byte) : (s.setSt b).opcode = s.opcode := rfl
@[simp] theorem setSt_status (b : Byte) : (s.setSt b).status = s.status := rfl
@[simp] theorem setSt_tone (b : Byte) : (s.setSt b).tone = s.tone := rfl
@[simp] theorem setSt_randPos (b : Byte) : (s.setSt b).randPos = s.randPos := rfl
@[simp] theorem setSt_params (b : Byte) : (s.setSt b).params = s.params := rfl
@[simp] theorem setSt_cyclesLeft (b : Byte) : (s.setSt b).cyclesLeft = s.cyclesLeft := rfl
@[simp] theorem setSt_tickCount (b : Byte) : (s.setSt b).tickCount = s.tickCount := rfl
@[simp] theorem setSt_randAhead (b : Byte) : (s.setSt b).randAhead = s.randAhead := rfl
@[simp] theorem setSt_keysAhead (b : Byte) : (s.setSt b).keysAhead = s.keysAhead := rfl
@[simp] theorem setSt_display (b : Byte) : (s.setSt b).display = s.display := rfl
@[simp] theorem setSt_readV (b : Byte) (q : Reg) : (s.setSt b).readV q = s.readV q := rfl
@[simp] theorem setSt_readByte (b : Byte) (q : Addr) : (s.setSt b).readByte q = s.readByte q := rfl
@[simp] theorem setSt_ea (b : Byte) (q : Nat) : (s.setSt b).ea q = s.ea q := rfl

/-! ## setFb -/

@[simp] theorem setFb_v (f : Framebuffer) : (s.setFb f).v = s.v := rfl
@[simp] theorem setFb_pc (f : Framebuffer) : (s.setFb f).pc = s.pc := rfl
@[simp] theorem setFb_i (f : Framebuffer) : (s.setFb f).i = s.i := rfl
@[simp] theorem setFb_stack (f : Framebuffer) : (s.setFb f).stack = s.stack := rfl
@[simp] theorem setFb_sp (f : Framebuffer) : (s.setFb f).sp = s.sp := rfl
@[simp] theorem setFb_dt (f : Framebuffer) : (s.setFb f).dt = s.dt := rfl
@[simp] theorem setFb_st (f : Framebuffer) : (s.setFb f).st = s.st := rfl
@[simp] theorem setFb_key (f : Framebuffer) : (s.setFb f).key = s.key := rfl
@[simp] theorem setFb_fb (f : Framebuffer) : (s.setFb f).fb = f := rfl
@[simp] theorem setFb_mem (f : Framebuffer) : (s.setFb f).mem = s.mem := rfl
@[simp] theorem setFb_opcode (f : Framebuffer) : (s.setFb f).opcode = s.opcode := rfl
@[simp] theorem setFb_status (f : Framebuffer) : (s.setFb f).status = s.status := rfl
@[simp] theorem setFb_tone (f : Framebuffer) : (s.setFb f).tone = s.tone := rfl
@[simp] theorem setFb_randPos (f : Framebuffer) : (s.setFb f).randPos = s.randPos := rfl
@[simp] theorem setFb_params (f : Framebuffer) : (s.setFb f).params = s.params := rfl
@[simp] theorem setFb_cyclesLeft (f : Framebuffer) : (s.setFb f).cyclesLeft = s.cyclesLeft := rfl
@[simp] theorem setFb_tickCount (f : Framebuffer) : (s.setFb f).tickCount = s.tickCount := rfl
@[simp] theorem setFb_randAhead (f : Framebuffer) : (s.setFb f).randAhead = s.randAhead := rfl
@[simp] theorem setFb_keysAhead (f : Framebuffer) : (s.setFb f).keysAhead = s.keysAhead := rfl
@[simp] theorem setFb_display (f : Framebuffer) : (s.setFb f).display = s.display := rfl
@[simp] theorem setFb_readV (f : Framebuffer) (q : Reg) : (s.setFb f).readV q = s.readV q := rfl
@[simp] theorem setFb_readByte (f : Framebuffer) (q : Addr) : (s.setFb f).readByte q = s.readByte q := rfl
@[simp] theorem setFb_ea (f : Framebuffer) (q : Nat) : (s.setFb f).ea q = s.ea q := rfl

/-! ## advancePc -/

@[simp] theorem advancePc_v : (s.advancePc).v = s.v := rfl
@[simp] theorem advancePc_pc : (s.advancePc).pc = s.pc + instrBytes := rfl
@[simp] theorem advancePc_i : (s.advancePc).i = s.i := rfl
@[simp] theorem advancePc_stack : (s.advancePc).stack = s.stack := rfl
@[simp] theorem advancePc_sp : (s.advancePc).sp = s.sp := rfl
@[simp] theorem advancePc_dt : (s.advancePc).dt = s.dt := rfl
@[simp] theorem advancePc_st : (s.advancePc).st = s.st := rfl
@[simp] theorem advancePc_key : (s.advancePc).key = s.key := rfl
@[simp] theorem advancePc_fb : (s.advancePc).fb = s.fb := rfl
@[simp] theorem advancePc_mem : (s.advancePc).mem = s.mem := rfl
@[simp] theorem advancePc_opcode : (s.advancePc).opcode = s.opcode := rfl
@[simp] theorem advancePc_status : (s.advancePc).status = s.status := rfl
@[simp] theorem advancePc_tone : (s.advancePc).tone = s.tone := rfl
@[simp] theorem advancePc_randPos : (s.advancePc).randPos = s.randPos := rfl
@[simp] theorem advancePc_params : (s.advancePc).params = s.params := rfl
@[simp] theorem advancePc_cyclesLeft : (s.advancePc).cyclesLeft = s.cyclesLeft := rfl
@[simp] theorem advancePc_tickCount : (s.advancePc).tickCount = s.tickCount := rfl
@[simp] theorem advancePc_randAhead : (s.advancePc).randAhead = s.randAhead := rfl
@[simp] theorem advancePc_keysAhead : (s.advancePc).keysAhead = s.keysAhead := rfl
@[simp] theorem advancePc_display : (s.advancePc).display = s.display := rfl
@[simp] theorem advancePc_readV (q : Reg) : (s.advancePc).readV q = s.readV q := rfl
@[simp] theorem advancePc_readByte (q : Addr) : (s.advancePc).readByte q = s.readByte q := rfl
@[simp] theorem advancePc_ea (q : Nat) : (s.advancePc).ea q = s.ea q := rfl

/-! ## rewindPc -/

@[simp] theorem rewindPc_v : (s.rewindPc).v = s.v := rfl
@[simp] theorem rewindPc_pc : (s.rewindPc).pc = s.pc - instrBytes := rfl
@[simp] theorem rewindPc_i : (s.rewindPc).i = s.i := rfl
@[simp] theorem rewindPc_stack : (s.rewindPc).stack = s.stack := rfl
@[simp] theorem rewindPc_sp : (s.rewindPc).sp = s.sp := rfl
@[simp] theorem rewindPc_dt : (s.rewindPc).dt = s.dt := rfl
@[simp] theorem rewindPc_st : (s.rewindPc).st = s.st := rfl
@[simp] theorem rewindPc_key : (s.rewindPc).key = s.key := rfl
@[simp] theorem rewindPc_fb : (s.rewindPc).fb = s.fb := rfl
@[simp] theorem rewindPc_mem : (s.rewindPc).mem = s.mem := rfl
@[simp] theorem rewindPc_opcode : (s.rewindPc).opcode = s.opcode := rfl
@[simp] theorem rewindPc_status : (s.rewindPc).status = s.status := rfl
@[simp] theorem rewindPc_tone : (s.rewindPc).tone = s.tone := rfl
@[simp] theorem rewindPc_randPos : (s.rewindPc).randPos = s.randPos := rfl
@[simp] theorem rewindPc_params : (s.rewindPc).params = s.params := rfl
@[simp] theorem rewindPc_cyclesLeft : (s.rewindPc).cyclesLeft = s.cyclesLeft := rfl
@[simp] theorem rewindPc_tickCount : (s.rewindPc).tickCount = s.tickCount := rfl
@[simp] theorem rewindPc_randAhead : (s.rewindPc).randAhead = s.randAhead := rfl
@[simp] theorem rewindPc_keysAhead : (s.rewindPc).keysAhead = s.keysAhead := rfl
@[simp] theorem rewindPc_display : (s.rewindPc).display = s.display := rfl
@[simp] theorem rewindPc_readV (q : Reg) : (s.rewindPc).readV q = s.readV q := rfl
@[simp] theorem rewindPc_readByte (q : Addr) : (s.rewindPc).readByte q = s.readByte q := rfl
@[simp] theorem rewindPc_ea (q : Nat) : (s.rewindPc).ea q = s.ea q := rfl

/-! ## writeByte -/

@[simp] theorem writeByte_v (a : Addr) (b : Byte) : (s.writeByte a b).v = s.v := rfl
@[simp] theorem writeByte_pc (a : Addr) (b : Byte) : (s.writeByte a b).pc = s.pc := rfl
@[simp] theorem writeByte_i (a : Addr) (b : Byte) : (s.writeByte a b).i = s.i := rfl
@[simp] theorem writeByte_stack (a : Addr) (b : Byte) : (s.writeByte a b).stack = s.stack := rfl
@[simp] theorem writeByte_sp (a : Addr) (b : Byte) : (s.writeByte a b).sp = s.sp := rfl
@[simp] theorem writeByte_dt (a : Addr) (b : Byte) : (s.writeByte a b).dt = s.dt := rfl
@[simp] theorem writeByte_st (a : Addr) (b : Byte) : (s.writeByte a b).st = s.st := rfl
@[simp] theorem writeByte_key (a : Addr) (b : Byte) : (s.writeByte a b).key = s.key := rfl
@[simp] theorem writeByte_fb (a : Addr) (b : Byte) : (s.writeByte a b).fb = s.fb := rfl
@[simp] theorem writeByte_mem (a : Addr) (b : Byte) : (s.writeByte a b).mem = s.mem.write a b := rfl
@[simp] theorem writeByte_opcode (a : Addr) (b : Byte) : (s.writeByte a b).opcode = s.opcode := rfl
@[simp] theorem writeByte_status (a : Addr) (b : Byte) : (s.writeByte a b).status = s.status := rfl
@[simp] theorem writeByte_tone (a : Addr) (b : Byte) : (s.writeByte a b).tone = s.tone := rfl
@[simp] theorem writeByte_randPos (a : Addr) (b : Byte) : (s.writeByte a b).randPos = s.randPos := rfl
@[simp] theorem writeByte_params (a : Addr) (b : Byte) : (s.writeByte a b).params = s.params := rfl
@[simp] theorem writeByte_cyclesLeft (a : Addr) (b : Byte) : (s.writeByte a b).cyclesLeft = s.cyclesLeft := rfl
@[simp] theorem writeByte_tickCount (a : Addr) (b : Byte) : (s.writeByte a b).tickCount = s.tickCount := rfl
@[simp] theorem writeByte_randAhead (a : Addr) (b : Byte) : (s.writeByte a b).randAhead = s.randAhead := rfl
@[simp] theorem writeByte_keysAhead (a : Addr) (b : Byte) : (s.writeByte a b).keysAhead = s.keysAhead := rfl
@[simp] theorem writeByte_display (a : Addr) (b : Byte) : (s.writeByte a b).display = s.display := rfl
@[simp] theorem writeByte_readV (a : Addr) (b : Byte) (q : Reg) : (s.writeByte a b).readV q = s.readV q := rfl
@[simp] theorem writeByte_ea (a : Addr) (b : Byte) (q : Nat) : (s.writeByte a b).ea q = s.ea q := rfl

/-! ## advanceRand -/

@[simp] theorem advanceRand_v : (s.advanceRand).v = s.v := rfl
@[simp] theorem advanceRand_pc : (s.advanceRand).pc = s.pc := rfl
@[simp] theorem advanceRand_i : (s.advanceRand).i = s.i := rfl
@[simp] theorem advanceRand_stack : (s.advanceRand).stack = s.stack := rfl
@[simp] theorem advanceRand_sp : (s.advanceRand).sp = s.sp := rfl
@[simp] theorem advanceRand_dt : (s.advanceRand).dt = s.dt := rfl
@[simp] theorem advanceRand_st : (s.advanceRand).st = s.st := rfl
@[simp] theorem advanceRand_key : (s.advanceRand).key = s.key := rfl
@[simp] theorem advanceRand_fb : (s.advanceRand).fb = s.fb := rfl
@[simp] theorem advanceRand_mem : (s.advanceRand).mem = s.mem := rfl
@[simp] theorem advanceRand_opcode : (s.advanceRand).opcode = s.opcode := rfl
@[simp] theorem advanceRand_status : (s.advanceRand).status = s.status := rfl
@[simp] theorem advanceRand_tone : (s.advanceRand).tone = s.tone := rfl
@[simp] theorem advanceRand_randPos : (s.advanceRand).randPos = s.randPos + 1 := rfl
@[simp] theorem advanceRand_params : (s.advanceRand).params = s.params := rfl
@[simp] theorem advanceRand_cyclesLeft : (s.advanceRand).cyclesLeft = s.cyclesLeft := rfl
@[simp] theorem advanceRand_tickCount : (s.advanceRand).tickCount = s.tickCount := rfl
@[simp] theorem advanceRand_randAhead : (s.advanceRand).randAhead = s.randAhead.tail := rfl
@[simp] theorem advanceRand_keysAhead : (s.advanceRand).keysAhead = s.keysAhead := rfl
@[simp] theorem advanceRand_display : (s.advanceRand).display = s.display := rfl
@[simp] theorem advanceRand_readV (q : Reg) : (s.advanceRand).readV q = s.readV q := rfl
@[simp] theorem advanceRand_readByte (q : Addr) : (s.advanceRand).readByte q = s.readByte q := rfl
@[simp] theorem advanceRand_ea (q : Nat) : (s.advanceRand).ea q = s.ea q := rfl

/-! ## raiseFault -/

@[simp] theorem raiseFault_v (c : FaultCause) (p o : Word) : (s.raiseFault c p o).v = s.v := rfl
@[simp] theorem raiseFault_pc (c : FaultCause) (p o : Word) : (s.raiseFault c p o).pc = p := rfl
@[simp] theorem raiseFault_i (c : FaultCause) (p o : Word) : (s.raiseFault c p o).i = s.i := rfl
@[simp] theorem raiseFault_stack (c : FaultCause) (p o : Word) : (s.raiseFault c p o).stack = s.stack := rfl
@[simp] theorem raiseFault_sp (c : FaultCause) (p o : Word) : (s.raiseFault c p o).sp = s.sp := rfl
@[simp] theorem raiseFault_dt (c : FaultCause) (p o : Word) : (s.raiseFault c p o).dt = s.dt := rfl
@[simp] theorem raiseFault_st (c : FaultCause) (p o : Word) : (s.raiseFault c p o).st = s.st := rfl
@[simp] theorem raiseFault_key (c : FaultCause) (p o : Word) : (s.raiseFault c p o).key = s.key := rfl
@[simp] theorem raiseFault_fb (c : FaultCause) (p o : Word) : (s.raiseFault c p o).fb = s.fb := rfl
@[simp] theorem raiseFault_mem (c : FaultCause) (p o : Word) : (s.raiseFault c p o).mem = s.mem := rfl
@[simp] theorem raiseFault_opcode (c : FaultCause) (p o : Word) : (s.raiseFault c p o).opcode = s.opcode := rfl
@[simp] theorem raiseFault_status (c : FaultCause) (p o : Word) : (s.raiseFault c p o).status = .faulted c p o := rfl
@[simp] theorem raiseFault_tone (c : FaultCause) (p o : Word) : (s.raiseFault c p o).tone = s.tone := rfl
@[simp] theorem raiseFault_randPos (c : FaultCause) (p o : Word) : (s.raiseFault c p o).randPos = s.randPos := rfl
@[simp] theorem raiseFault_params (c : FaultCause) (p o : Word) : (s.raiseFault c p o).params = s.params := rfl
@[simp] theorem raiseFault_cyclesLeft (c : FaultCause) (p o : Word) : (s.raiseFault c p o).cyclesLeft = s.cyclesLeft := rfl
@[simp] theorem raiseFault_tickCount (c : FaultCause) (p o : Word) : (s.raiseFault c p o).tickCount = s.tickCount := rfl
@[simp] theorem raiseFault_randAhead (c : FaultCause) (p o : Word) : (s.raiseFault c p o).randAhead = s.randAhead := rfl
@[simp] theorem raiseFault_keysAhead (c : FaultCause) (p o : Word) : (s.raiseFault c p o).keysAhead = s.keysAhead := rfl
@[simp] theorem raiseFault_display (c : FaultCause) (p o : Word) : (s.raiseFault c p o).display = s.display := rfl
@[simp] theorem raiseFault_readV (c : FaultCause) (p o : Word) (q : Reg) : (s.raiseFault c p o).readV q = s.readV q := rfl
@[simp] theorem raiseFault_readByte (c : FaultCause) (p o : Word) (q : Addr) : (s.raiseFault c p o).readByte q = s.readByte q := rfl
@[simp] theorem raiseFault_ea (c : FaultCause) (p o : Word) (q : Nat) : (s.raiseFault c p o).ea q = s.ea q := rfl

/-! ## faultIn -/

@[simp] theorem faultIn_v (c : FaultCause) (j : Instr) : (s.faultIn c j).v = s.v := rfl
@[simp] theorem faultIn_pc (c : FaultCause) (j : Instr) : (s.faultIn c j).pc = s.pc - instrBytes := rfl
@[simp] theorem faultIn_i (c : FaultCause) (j : Instr) : (s.faultIn c j).i = s.i := rfl
@[simp] theorem faultIn_stack (c : FaultCause) (j : Instr) : (s.faultIn c j).stack = s.stack := rfl
@[simp] theorem faultIn_sp (c : FaultCause) (j : Instr) : (s.faultIn c j).sp = s.sp := rfl
@[simp] theorem faultIn_dt (c : FaultCause) (j : Instr) : (s.faultIn c j).dt = s.dt := rfl
@[simp] theorem faultIn_st (c : FaultCause) (j : Instr) : (s.faultIn c j).st = s.st := rfl
@[simp] theorem faultIn_key (c : FaultCause) (j : Instr) : (s.faultIn c j).key = s.key := rfl
@[simp] theorem faultIn_fb (c : FaultCause) (j : Instr) : (s.faultIn c j).fb = s.fb := rfl
@[simp] theorem faultIn_mem (c : FaultCause) (j : Instr) : (s.faultIn c j).mem = s.mem := rfl
@[simp] theorem faultIn_opcode (c : FaultCause) (j : Instr) : (s.faultIn c j).opcode = s.opcode := rfl
@[simp] theorem faultIn_status (c : FaultCause) (j : Instr) : (s.faultIn c j).status = .faulted c (s.pc - instrBytes) (encode j) := rfl
@[simp] theorem faultIn_tone (c : FaultCause) (j : Instr) : (s.faultIn c j).tone = s.tone := rfl
@[simp] theorem faultIn_randPos (c : FaultCause) (j : Instr) : (s.faultIn c j).randPos = s.randPos := rfl
@[simp] theorem faultIn_params (c : FaultCause) (j : Instr) : (s.faultIn c j).params = s.params := rfl
@[simp] theorem faultIn_cyclesLeft (c : FaultCause) (j : Instr) : (s.faultIn c j).cyclesLeft = s.cyclesLeft := rfl
@[simp] theorem faultIn_tickCount (c : FaultCause) (j : Instr) : (s.faultIn c j).tickCount = s.tickCount := rfl
@[simp] theorem faultIn_randAhead (c : FaultCause) (j : Instr) : (s.faultIn c j).randAhead = s.randAhead := rfl
@[simp] theorem faultIn_keysAhead (c : FaultCause) (j : Instr) : (s.faultIn c j).keysAhead = s.keysAhead := rfl
@[simp] theorem faultIn_display (c : FaultCause) (j : Instr) : (s.faultIn c j).display = s.display := rfl
@[simp] theorem faultIn_readV (c : FaultCause) (j : Instr) (q : Reg) : (s.faultIn c j).readV q = s.readV q := rfl
@[simp] theorem faultIn_readByte (c : FaultCause) (j : Instr) (q : Addr) : (s.faultIn c j).readByte q = s.readByte q := rfl
@[simp] theorem faultIn_ea (c : FaultCause) (j : Instr) (q : Nat) : (s.faultIn c j).ea q = s.ea q := rfl

/-! ## writeResultThenFlag -/

@[simp] theorem writeResultThenFlag_v (x : Reg) (b f : Byte) : (s.writeResultThenFlag x b f).v = (s.v.set x.val b x.isLt).set regF.val f regF.isLt := rfl
@[simp] theorem writeResultThenFlag_pc (x : Reg) (b f : Byte) : (s.writeResultThenFlag x b f).pc = s.pc := rfl
@[simp] theorem writeResultThenFlag_i (x : Reg) (b f : Byte) : (s.writeResultThenFlag x b f).i = s.i := rfl
@[simp] theorem writeResultThenFlag_stack (x : Reg) (b f : Byte) : (s.writeResultThenFlag x b f).stack = s.stack := rfl
@[simp] theorem writeResultThenFlag_sp (x : Reg) (b f : Byte) : (s.writeResultThenFlag x b f).sp = s.sp := rfl
@[simp] theorem writeResultThenFlag_dt (x : Reg) (b f : Byte) : (s.writeResultThenFlag x b f).dt = s.dt := rfl
@[simp] theorem writeResultThenFlag_st (x : Reg) (b f : Byte) : (s.writeResultThenFlag x b f).st = s.st := rfl
@[simp] theorem writeResultThenFlag_key (x : Reg) (b f : Byte) : (s.writeResultThenFlag x b f).key = s.key := rfl
@[simp] theorem writeResultThenFlag_fb (x : Reg) (b f : Byte) : (s.writeResultThenFlag x b f).fb = s.fb := rfl
@[simp] theorem writeResultThenFlag_mem (x : Reg) (b f : Byte) : (s.writeResultThenFlag x b f).mem = s.mem := rfl
@[simp] theorem writeResultThenFlag_opcode (x : Reg) (b f : Byte) : (s.writeResultThenFlag x b f).opcode = s.opcode := rfl
@[simp] theorem writeResultThenFlag_status (x : Reg) (b f : Byte) : (s.writeResultThenFlag x b f).status = s.status := rfl
@[simp] theorem writeResultThenFlag_tone (x : Reg) (b f : Byte) : (s.writeResultThenFlag x b f).tone = s.tone := rfl
@[simp] theorem writeResultThenFlag_randPos (x : Reg) (b f : Byte) : (s.writeResultThenFlag x b f).randPos = s.randPos := rfl
@[simp] theorem writeResultThenFlag_params (x : Reg) (b f : Byte) : (s.writeResultThenFlag x b f).params = s.params := rfl
@[simp] theorem writeResultThenFlag_cyclesLeft (x : Reg) (b f : Byte) : (s.writeResultThenFlag x b f).cyclesLeft = s.cyclesLeft := rfl
@[simp] theorem writeResultThenFlag_tickCount (x : Reg) (b f : Byte) : (s.writeResultThenFlag x b f).tickCount = s.tickCount := rfl
@[simp] theorem writeResultThenFlag_randAhead (x : Reg) (b f : Byte) : (s.writeResultThenFlag x b f).randAhead = s.randAhead := rfl
@[simp] theorem writeResultThenFlag_keysAhead (x : Reg) (b f : Byte) : (s.writeResultThenFlag x b f).keysAhead = s.keysAhead := rfl
@[simp] theorem writeResultThenFlag_display (x : Reg) (b f : Byte) : (s.writeResultThenFlag x b f).display = s.display := rfl
@[simp] theorem writeResultThenFlag_readByte (x : Reg) (b f : Byte) (q : Addr) : (s.writeResultThenFlag x b f).readByte q = s.readByte q := rfl
@[simp] theorem writeResultThenFlag_ea (x : Reg) (b f : Byte) (q : Nat) : (s.writeResultThenFlag x b f).ea q = s.ea q := rfl

/-! ## tick -/

@[simp] theorem tick_v : (s.tick).v = s.v := rfl
@[simp] theorem tick_pc : (s.tick).pc = s.pc := rfl
@[simp] theorem tick_i : (s.tick).i = s.i := rfl
@[simp] theorem tick_stack : (s.tick).stack = s.stack := rfl
@[simp] theorem tick_sp : (s.tick).sp = s.sp := rfl
@[simp] theorem tick_dt : (s.tick).dt = countDown s.dt := rfl
@[simp] theorem tick_st : (s.tick).st = countDown s.st := rfl
@[simp] theorem tick_key : (s.tick).key = s.nextKeys := rfl
@[simp] theorem tick_fb : (s.tick).fb = s.fb := rfl
@[simp] theorem tick_mem : (s.tick).mem = s.mem := rfl
@[simp] theorem tick_opcode : (s.tick).opcode = s.opcode := rfl
@[simp] theorem tick_status : (s.tick).status = s.status := rfl
@[simp] theorem tick_tone : (s.tick).tone = decide (0 < s.st.toNat) := rfl
@[simp] theorem tick_randPos : (s.tick).randPos = s.randPos := rfl
@[simp] theorem tick_params : (s.tick).params = s.params := rfl
@[simp] theorem tick_cyclesLeft : (s.tick).cyclesLeft = s.params.ipt := rfl
@[simp] theorem tick_tickCount : (s.tick).tickCount = s.tickCount + 1 := rfl
@[simp] theorem tick_randAhead : (s.tick).randAhead = s.randAhead := rfl
@[simp] theorem tick_keysAhead : (s.tick).keysAhead = s.keysAhead.tail := rfl
@[simp] theorem tick_display : (s.tick).display = some s.fb := rfl
@[simp] theorem tick_readV (q : Reg) : (s.tick).readV q = s.readV q := rfl
@[simp] theorem tick_readByte (q : Addr) : (s.tick).readByte q = s.readByte q := rfl
@[simp] theorem tick_ea (q : Nat) : (s.tick).ea q = s.ea q := rfl

/-! ## skipIf -/

@[simp] theorem skipIf_v (c : Bool) : (s.skipIf c).v = s.v := by
  unfold State.skipIf; split <;> rfl
@[simp] theorem skipIf_i (c : Bool) : (s.skipIf c).i = s.i := by
  unfold State.skipIf; split <;> rfl
@[simp] theorem skipIf_stack (c : Bool) : (s.skipIf c).stack = s.stack := by
  unfold State.skipIf; split <;> rfl
@[simp] theorem skipIf_sp (c : Bool) : (s.skipIf c).sp = s.sp := by
  unfold State.skipIf; split <;> rfl
@[simp] theorem skipIf_dt (c : Bool) : (s.skipIf c).dt = s.dt := by
  unfold State.skipIf; split <;> rfl
@[simp] theorem skipIf_st (c : Bool) : (s.skipIf c).st = s.st := by
  unfold State.skipIf; split <;> rfl
@[simp] theorem skipIf_key (c : Bool) : (s.skipIf c).key = s.key := by
  unfold State.skipIf; split <;> rfl
@[simp] theorem skipIf_fb (c : Bool) : (s.skipIf c).fb = s.fb := by
  unfold State.skipIf; split <;> rfl
@[simp] theorem skipIf_mem (c : Bool) : (s.skipIf c).mem = s.mem := by
  unfold State.skipIf; split <;> rfl
@[simp] theorem skipIf_opcode (c : Bool) : (s.skipIf c).opcode = s.opcode := by
  unfold State.skipIf; split <;> rfl
@[simp] theorem skipIf_status (c : Bool) : (s.skipIf c).status = s.status := by
  unfold State.skipIf; split <;> rfl
@[simp] theorem skipIf_tone (c : Bool) : (s.skipIf c).tone = s.tone := by
  unfold State.skipIf; split <;> rfl
@[simp] theorem skipIf_randPos (c : Bool) : (s.skipIf c).randPos = s.randPos := by
  unfold State.skipIf; split <;> rfl
@[simp] theorem skipIf_params (c : Bool) : (s.skipIf c).params = s.params := by
  unfold State.skipIf; split <;> rfl
@[simp] theorem skipIf_cyclesLeft (c : Bool) : (s.skipIf c).cyclesLeft = s.cyclesLeft := by
  unfold State.skipIf; split <;> rfl
@[simp] theorem skipIf_tickCount (c : Bool) : (s.skipIf c).tickCount = s.tickCount := by
  unfold State.skipIf; split <;> rfl
@[simp] theorem skipIf_randAhead (c : Bool) : (s.skipIf c).randAhead = s.randAhead := by
  unfold State.skipIf; split <;> rfl
@[simp] theorem skipIf_keysAhead (c : Bool) : (s.skipIf c).keysAhead = s.keysAhead := by
  unfold State.skipIf; split <;> rfl
@[simp] theorem skipIf_display (c : Bool) : (s.skipIf c).display = s.display := by
  unfold State.skipIf; split <;> rfl
@[simp] theorem skipIf_readV (c : Bool) (q : Reg) : (s.skipIf c).readV q = s.readV q := by
  unfold State.skipIf; split <;> rfl
@[simp] theorem skipIf_readByte (c : Bool) (q : Addr) : (s.skipIf c).readByte q = s.readByte q := by
  unfold State.skipIf; split <;> rfl
@[simp] theorem skipIf_ea (c : Bool) (q : Nat) : (s.skipIf c).ea q = s.ea q := by
  unfold State.skipIf; split <;> rfl

/-! ## bumpI -/

@[simp] theorem bumpI_v (n : Nat) : (s.bumpI n).v = s.v := by
  unfold State.bumpI; split <;> rfl
@[simp] theorem bumpI_pc (n : Nat) : (s.bumpI n).pc = s.pc := by
  unfold State.bumpI; split <;> rfl
@[simp] theorem bumpI_stack (n : Nat) : (s.bumpI n).stack = s.stack := by
  unfold State.bumpI; split <;> rfl
@[simp] theorem bumpI_sp (n : Nat) : (s.bumpI n).sp = s.sp := by
  unfold State.bumpI; split <;> rfl
@[simp] theorem bumpI_dt (n : Nat) : (s.bumpI n).dt = s.dt := by
  unfold State.bumpI; split <;> rfl
@[simp] theorem bumpI_st (n : Nat) : (s.bumpI n).st = s.st := by
  unfold State.bumpI; split <;> rfl
@[simp] theorem bumpI_key (n : Nat) : (s.bumpI n).key = s.key := by
  unfold State.bumpI; split <;> rfl
@[simp] theorem bumpI_fb (n : Nat) : (s.bumpI n).fb = s.fb := by
  unfold State.bumpI; split <;> rfl
@[simp] theorem bumpI_mem (n : Nat) : (s.bumpI n).mem = s.mem := by
  unfold State.bumpI; split <;> rfl
@[simp] theorem bumpI_opcode (n : Nat) : (s.bumpI n).opcode = s.opcode := by
  unfold State.bumpI; split <;> rfl
@[simp] theorem bumpI_status (n : Nat) : (s.bumpI n).status = s.status := by
  unfold State.bumpI; split <;> rfl
@[simp] theorem bumpI_tone (n : Nat) : (s.bumpI n).tone = s.tone := by
  unfold State.bumpI; split <;> rfl
@[simp] theorem bumpI_randPos (n : Nat) : (s.bumpI n).randPos = s.randPos := by
  unfold State.bumpI; split <;> rfl
@[simp] theorem bumpI_params (n : Nat) : (s.bumpI n).params = s.params := by
  unfold State.bumpI; split <;> rfl
@[simp] theorem bumpI_cyclesLeft (n : Nat) : (s.bumpI n).cyclesLeft = s.cyclesLeft := by
  unfold State.bumpI; split <;> rfl
@[simp] theorem bumpI_tickCount (n : Nat) : (s.bumpI n).tickCount = s.tickCount := by
  unfold State.bumpI; split <;> rfl
@[simp] theorem bumpI_randAhead (n : Nat) : (s.bumpI n).randAhead = s.randAhead := by
  unfold State.bumpI; split <;> rfl
@[simp] theorem bumpI_keysAhead (n : Nat) : (s.bumpI n).keysAhead = s.keysAhead := by
  unfold State.bumpI; split <;> rfl
@[simp] theorem bumpI_display (n : Nat) : (s.bumpI n).display = s.display := by
  unfold State.bumpI; split <;> rfl
@[simp] theorem bumpI_readV (n : Nat) (q : Reg) : (s.bumpI n).readV q = s.readV q := by
  unfold State.bumpI; split <;> rfl
@[simp] theorem bumpI_readByte (n : Nat) (q : Addr) : (s.bumpI n).readByte q = s.readByte q := by
  unfold State.bumpI; split <;> rfl

/-! ## writeLogic -/

@[simp] theorem writeLogic_pc (x : Reg) (b : Byte) : (s.writeLogic x b).pc = s.pc := by
  unfold State.writeLogic; split <;> rfl
@[simp] theorem writeLogic_i (x : Reg) (b : Byte) : (s.writeLogic x b).i = s.i := by
  unfold State.writeLogic; split <;> rfl
@[simp] theorem writeLogic_stack (x : Reg) (b : Byte) : (s.writeLogic x b).stack = s.stack := by
  unfold State.writeLogic; split <;> rfl
@[simp] theorem writeLogic_sp (x : Reg) (b : Byte) : (s.writeLogic x b).sp = s.sp := by
  unfold State.writeLogic; split <;> rfl
@[simp] theorem writeLogic_dt (x : Reg) (b : Byte) : (s.writeLogic x b).dt = s.dt := by
  unfold State.writeLogic; split <;> rfl
@[simp] theorem writeLogic_st (x : Reg) (b : Byte) : (s.writeLogic x b).st = s.st := by
  unfold State.writeLogic; split <;> rfl
@[simp] theorem writeLogic_key (x : Reg) (b : Byte) : (s.writeLogic x b).key = s.key := by
  unfold State.writeLogic; split <;> rfl
@[simp] theorem writeLogic_fb (x : Reg) (b : Byte) : (s.writeLogic x b).fb = s.fb := by
  unfold State.writeLogic; split <;> rfl
@[simp] theorem writeLogic_mem (x : Reg) (b : Byte) : (s.writeLogic x b).mem = s.mem := by
  unfold State.writeLogic; split <;> rfl
@[simp] theorem writeLogic_opcode (x : Reg) (b : Byte) : (s.writeLogic x b).opcode = s.opcode := by
  unfold State.writeLogic; split <;> rfl
@[simp] theorem writeLogic_status (x : Reg) (b : Byte) : (s.writeLogic x b).status = s.status := by
  unfold State.writeLogic; split <;> rfl
@[simp] theorem writeLogic_tone (x : Reg) (b : Byte) : (s.writeLogic x b).tone = s.tone := by
  unfold State.writeLogic; split <;> rfl
@[simp] theorem writeLogic_randPos (x : Reg) (b : Byte) : (s.writeLogic x b).randPos = s.randPos := by
  unfold State.writeLogic; split <;> rfl
@[simp] theorem writeLogic_params (x : Reg) (b : Byte) : (s.writeLogic x b).params = s.params := by
  unfold State.writeLogic; split <;> rfl
@[simp] theorem writeLogic_cyclesLeft (x : Reg) (b : Byte) : (s.writeLogic x b).cyclesLeft = s.cyclesLeft := by
  unfold State.writeLogic; split <;> rfl
@[simp] theorem writeLogic_tickCount (x : Reg) (b : Byte) : (s.writeLogic x b).tickCount = s.tickCount := by
  unfold State.writeLogic; split <;> rfl
@[simp] theorem writeLogic_randAhead (x : Reg) (b : Byte) : (s.writeLogic x b).randAhead = s.randAhead := by
  unfold State.writeLogic; split <;> rfl
@[simp] theorem writeLogic_keysAhead (x : Reg) (b : Byte) : (s.writeLogic x b).keysAhead = s.keysAhead := by
  unfold State.writeLogic; split <;> rfl
@[simp] theorem writeLogic_display (x : Reg) (b : Byte) : (s.writeLogic x b).display = s.display := by
  unfold State.writeLogic; split <;> rfl
@[simp] theorem writeLogic_readByte (x : Reg) (b : Byte) (q : Addr) : (s.writeLogic x b).readByte q = s.readByte q := by
  unfold State.writeLogic; split <;> rfl
@[simp] theorem writeLogic_ea (x : Reg) (b : Byte) (q : Nat) : (s.writeLogic x b).ea q = s.ea q := by
  unfold State.writeLogic; split <;> rfl

/-! ## endCycle -/

@[simp] theorem endCycle_v (w : Word) : (s.endCycle w).v = s.v := by
  unfold State.endCycle; split <;> rfl
@[simp] theorem endCycle_pc (w : Word) : (s.endCycle w).pc = s.pc := by
  unfold State.endCycle; split <;> rfl
@[simp] theorem endCycle_i (w : Word) : (s.endCycle w).i = s.i := by
  unfold State.endCycle; split <;> rfl
@[simp] theorem endCycle_stack (w : Word) : (s.endCycle w).stack = s.stack := by
  unfold State.endCycle; split <;> rfl
@[simp] theorem endCycle_sp (w : Word) : (s.endCycle w).sp = s.sp := by
  unfold State.endCycle; split <;> rfl
@[simp] theorem endCycle_dt (w : Word) : (s.endCycle w).dt = s.dt := by
  unfold State.endCycle; split <;> rfl
@[simp] theorem endCycle_st (w : Word) : (s.endCycle w).st = s.st := by
  unfold State.endCycle; split <;> rfl
@[simp] theorem endCycle_key (w : Word) : (s.endCycle w).key = s.key := by
  unfold State.endCycle; split <;> rfl
@[simp] theorem endCycle_fb (w : Word) : (s.endCycle w).fb = s.fb := by
  unfold State.endCycle; split <;> rfl
@[simp] theorem endCycle_mem (w : Word) : (s.endCycle w).mem = s.mem := by
  unfold State.endCycle; split <;> rfl
@[simp] theorem endCycle_status (w : Word) : (s.endCycle w).status = s.status := by
  unfold State.endCycle; split <;> rfl
@[simp] theorem endCycle_tone (w : Word) : (s.endCycle w).tone = s.tone := by
  unfold State.endCycle; split <;> rfl
@[simp] theorem endCycle_randPos (w : Word) : (s.endCycle w).randPos = s.randPos := by
  unfold State.endCycle; split <;> rfl
@[simp] theorem endCycle_params (w : Word) : (s.endCycle w).params = s.params := by
  unfold State.endCycle; split <;> rfl
@[simp] theorem endCycle_tickCount (w : Word) : (s.endCycle w).tickCount = s.tickCount := by
  unfold State.endCycle; split <;> rfl
@[simp] theorem endCycle_randAhead (w : Word) : (s.endCycle w).randAhead = s.randAhead := by
  unfold State.endCycle; split <;> rfl
@[simp] theorem endCycle_keysAhead (w : Word) : (s.endCycle w).keysAhead = s.keysAhead := by
  unfold State.endCycle; split <;> rfl
@[simp] theorem endCycle_display (w : Word) : (s.endCycle w).display = s.display := by
  unfold State.endCycle; split <;> rfl
@[simp] theorem endCycle_readV (w : Word) (q : Reg) : (s.endCycle w).readV q = s.readV q := by
  unfold State.endCycle; split <;> rfl
@[simp] theorem endCycle_readByte (w : Word) (q : Addr) : (s.endCycle w).readByte q = s.readByte q := by
  unfold State.endCycle; split <;> rfl
@[simp] theorem endCycle_ea (w : Word) (q : Nat) : (s.endCycle w).ea q = s.ea q := by
  unfold State.endCycle; split <;> rfl

/-! ## The changed field of a conditional update -/

@[simp] theorem skipIf_pc (c : Bool) : (s.skipIf c).pc = if c then s.pc + instrBytes else s.pc := by
  unfold State.skipIf; split <;> rfl

@[simp] theorem bumpI_i (n : Nat) : (s.bumpI n).i = if s.params.qMemInc then addIndex s.i n else s.i := by
  unfold State.bumpI; split <;> rfl

theorem endCycle_running (w : Word) (h : s.status = .running) :
    s.endCycle w = { s with opcode := w, cyclesLeft := s.cyclesLeft - 1 } := by
  simp [State.endCycle, h]

theorem endCycle_stopped (w : Word) (h : s.status ≠ .running) : s.endCycle w = s := by
  simp [State.endCycle, h]

end Sys2Proof.Machine
end

