-- ==== Sys2Proof/Laws/Memory.lean ====
section
/-! SUPPORT. The memory operations keep the canonical form, and a read sees the last write. -/

namespace Sys2Proof.Machine

/-! ## Listing a cell -/

theorem Memory.mem_put_key {m : Memory} {a : Nat} {b : Byte} {c : Host.Cell} (h : c ∈ m.put a b) :
    c = (a, b) ∨ c ∈ m := by
  induction m with
  | nil => exact .inl (by simpa [Memory.put] using h)
  | cons d rest ih =>
    simp only [Memory.put] at h
    split at h
    · simpa using h
    · split at h
      · simp only [List.mem_cons] at h ⊢; tauto
      · simp only [List.mem_cons] at h ⊢
        rcases h with h | h
        · exact .inr (.inl h)
        · rcases ih h with h | h
          · exact .inl h
          · exact .inr (.inr h)

theorem Memory.mem_of_mem_drop {m : Memory} {a : Nat} {c : Host.Cell} (h : c ∈ m.drop a) : c ∈ m := by
  induction m with
  | nil => simp [Memory.drop] at h
  | cons d rest ih =>
    simp only [Memory.drop] at h
    split at h
    · exact List.mem_cons_of_mem _ h
    · simp only [List.mem_cons] at h ⊢
      exact h.imp id ih

theorem Memory.pairwise_put {m : Memory} (h : m.Pairwise (fun c d => c.1 < d.1)) (a : Nat) (b : Byte) :
    (m.put a b).Pairwise (fun c d => c.1 < d.1) := by
  induction m with
  | nil => simp [Memory.put]
  | cons d rest ih =>
    obtain ⟨hd, hr⟩ := List.pairwise_cons.1 h
    simp only [Memory.put]
    split
    · rename_i hlt
      refine List.pairwise_cons.2 ⟨fun c hc => ?_, h⟩
      rcases List.mem_cons.1 hc with rfl | hc
      · exact hlt
      · exact Nat.lt_trans hlt (hd c hc)
    · split
      · rename_i heq
        subst heq
        exact List.pairwise_cons.2 ⟨hd, hr⟩
      · refine List.pairwise_cons.2 ⟨fun c hc => ?_, ih hr⟩
        rcases Memory.mem_put_key hc with rfl | hc
        · simp only; omega
        · exact hd c hc

theorem Memory.pairwise_drop {m : Memory} (h : m.Pairwise (fun c d => c.1 < d.1)) (a : Nat) :
    (m.drop a).Pairwise (fun c d => c.1 < d.1) := by
  induction m with
  | nil => simp [Memory.drop]
  | cons d rest ih =>
    obtain ⟨hd, hr⟩ := List.pairwise_cons.1 h
    simp only [Memory.drop]
    split
    · exact hr
    · exact List.pairwise_cons.2 ⟨fun c hc => hd c (Memory.mem_of_mem_drop hc), ih hr⟩

/-! ## The canonical form -/

theorem Memory.wf_nil : Memory.wf [] := by simp [Memory.wf]

theorem Memory.wf_write {m : Memory} (h : m.wf) (a : Addr) (b : Byte) : (m.write a b).wf := by
  unfold Memory.write
  split
  · exact ⟨Memory.pairwise_drop h.1 _, fun c hc => h.2 c (Memory.mem_of_mem_drop hc)⟩
  · rename_i hb
    refine ⟨Memory.pairwise_put h.1 _ _, fun c hc => ?_⟩
    rcases Memory.mem_put_key hc with rfl | hc
    · exact ⟨a.isLt, hb⟩
    · exact h.2 c hc

theorem Memory.wf_writeList {m : Memory} (h : m.wf) (base : Nat) (bytes : List Byte) :
    (m.writeList base bytes).wf := by
  induction bytes generalizing m base with
  | nil => exact h
  | cons b rest ih => exact ih (Memory.wf_write h _ _) _

/-- The default glyphs are the reset contents, so listing them lists nothing (R25, R32). -/
theorem writeList_font : Memory.writeList [] fontBase (fontOf customaryGlyphs) = [] := by decide

/-- A reset with the default parameters and glyphs and an empty ROM is `State.reset` (R180). -/
theorem resetWith_customaryGlyphs : State.resetWith resetParams customaryGlyphs [] [] [] = State.reset := by
  simp only [State.resetWith, writeList_font]
  rfl

theorem length_fontOf (glyphs : Vector Byte 75) : (fontOf glyphs).length = 80 := by simp [fontOf, glyphZero]

theorem reset_mem_wf : State.reset.mem.wf := Memory.wf_nil

/-! ## Reading back -/

theorem Memory.lookup_unlisted {m : Memory} {a : Nat} (h : ∀ c ∈ m, c.1 ≠ a) :
    m.lookup a = background a := by
  induction m with
  | nil => rfl
  | cons d rest ih =>
    have hd : d.1 ≠ a := h d (by simp)
    simp [Memory.lookup, hd, ih fun c hc => h c (by simp [hc])]

theorem Memory.lookup_put_same (m : Memory) (a : Nat) (b : Byte) : (m.put a b).lookup a = b := by
  induction m with
  | nil => simp [Memory.put, Memory.lookup]
  | cons d rest ih =>
    simp only [Memory.put]
    split
    · simp [Memory.lookup]
    · split
      · simp [Memory.lookup]
      · rename_i h
        simp [Memory.lookup, Ne.symm h, ih]

theorem Memory.lookup_put_other (m : Memory) {a k : Nat} (b : Byte) (h : k ≠ a) :
    (m.put a b).lookup k = m.lookup k := by
  induction m with
  | nil => simp [Memory.put, Memory.lookup, Ne.symm h]
  | cons d rest ih =>
    simp only [Memory.put]
    split
    · simp [Memory.lookup, Ne.symm h]
    · split
      · rename_i he
        subst he
        simp [Memory.lookup, Ne.symm h]
      · simp [Memory.lookup, ih]

theorem Memory.lookup_drop_other (m : Memory) {a k : Nat} (h : k ≠ a) :
    (m.drop a).lookup k = m.lookup k := by
  induction m with
  | nil => rfl
  | cons d rest ih =>
    simp only [Memory.drop]
    split
    · rename_i he
      subst he
      simp [Memory.lookup, Ne.symm h]
    · simp [Memory.lookup, ih]

theorem Memory.lookup_drop_same {m : Memory} (h : m.Pairwise (fun c d => c.1 < d.1)) (a : Nat) :
    (m.drop a).lookup a = background a := by
  induction m with
  | nil => rfl
  | cons d rest ih =>
    obtain ⟨hd, hr⟩ := List.pairwise_cons.1 h
    simp only [Memory.drop]
    split
    · rename_i he
      subst he
      exact Memory.lookup_unlisted fun c hc => Nat.ne_of_gt (hd c hc)
    · rename_i he
      simp [Memory.lookup, he, ih hr]

/-- A write leaves every other address alone, in any memory. -/
theorem Memory.read_write_other (m : Memory) {a c : Addr} (b : Byte) (h : c ≠ a) :
    (m.write a b).read c = m.read c := by
  have hn : c.toNat ≠ a.toNat := fun he => h (BitVec.eq_of_toNat_eq he)
  unfold Memory.write Memory.read
  split
  · exact Memory.lookup_drop_other m hn
  · exact Memory.lookup_put_other m b hn

/-- A read at the address of the last write gives the byte written. -/
theorem Memory.read_write_same {m : Memory} (hm : m.wf) (a : Addr) (b : Byte) :
    (m.write a b).read a = b := by
  unfold Memory.write Memory.read
  split
  · rename_i h
    rw [Memory.lookup_drop_same hm.1, h]
  · exact Memory.lookup_put_same m _ b

/-- Every byte of a loaded list is in its place, and every other address is as before (R183). -/
theorem Memory.read_writeList {m : Memory} (hm : m.wf) (base : Nat) (bytes : List Byte)
    (hb : base + bytes.length ≤ 4096) (a : Addr) :
    (m.writeList base bytes).read a =
      if base ≤ a.toNat ∧ a.toNat < base + bytes.length then bytes.getD (a.toNat - base) 0 else m.read a := by
  induction bytes generalizing m base with
  | nil =>
    rw [if_neg (by simp)]
    rfl
  | cons b rest ih =>
    simp only [List.length_cons] at hb ⊢
    rw [Memory.writeList, ih (Memory.wf_write hm _ _) _ (by omega)]
    by_cases ha : a.toNat = base
    · have he : a = BitVec.ofNat 12 base := BitVec.eq_of_toNat_eq (by rw [← ha]; simp)
      rw [if_neg (by omega), if_pos (by omega), ha, he, Memory.read_write_same hm]
      simp
    · have hne : a ≠ BitVec.ofNat 12 base := fun he => ha (by rw [he, BitVec.toNat_ofNat]; omega)
      rw [Memory.read_write_other _ _ hne]
      by_cases h1 : base + 1 ≤ a.toNat ∧ a.toNat < base + 1 + rest.length
      · rw [if_pos h1, if_pos (by omega), show a.toNat - base = (a.toNat - (base + 1)) + 1 by omega]
        simp
      · rw [if_neg h1, if_neg (by omega)]

theorem readByte_writeByte_other (s : State) {a c : Addr} (b : Byte) (h : c ≠ a) :
    (s.writeByte a b).readByte c = s.readByte c :=
  Memory.read_write_other s.mem b h

theorem readByte_writeByte_same {s : State} (h : s.mem.wf) (a : Addr) (b : Byte) :
    (s.writeByte a b).readByte a = b :=
  Memory.read_write_same h a b

theorem writeByte_wf {s : State} (h : s.mem.wf) (a : Addr) (b : Byte) : (s.writeByte a b).mem.wf :=
  Memory.wf_write h a b

end Sys2Proof.Machine
end

