-- ==== Sys2Proof/Laws/Ops.lean ====
section
/-! SUPPORT. What each shared operation does, once, so that proofs cite it and do not unfold it. -/

namespace Sys2Proof.Machine

variable (s : State)

/-! ## Registers -/

@[simp] theorem readV_writeV_same (r : Reg) (b : Byte) : (s.writeV r b).readV r = b := by
  simp [State.readV, State.writeV]

theorem readV_writeV_other {r q : Reg} (b : Byte) (h : q ≠ r) : (s.writeV r b).readV q = s.readV q := by
  have hn : r.val ≠ q.val := fun he => h (Fin.ext he.symm)
  simp [State.readV, State.writeV, hn]

theorem regOf_val {k : Nat} (h : k < 16) : (regOf k).val = k := Nat.mod_eq_of_lt h

theorem readV_writeV (r q : Reg) (b : Byte) :
    (s.writeV r b).readV q = if q = r then b else s.readV q := by
  split
  · rename_i h; subst h; simp
  · rename_i h; exact readV_writeV_other s b h

/-- R113: the flag wins over the result. -/
theorem readV_writeResultThenFlag (x q : Reg) (b f : Byte) :
    (s.writeResultThenFlag x b f).readV q = if q = regF then f else if q = x then b else s.readV q := by
  simp [State.writeResultThenFlag, readV_writeV]

theorem readV_writeLogic (x q : Reg) (b : Byte) :
    (s.writeLogic x b).readV q =
      if s.params.qVfReset = true ∧ q = regF then 0 else if q = x then b else s.readV q := by
  unfold State.writeLogic
  split
  · rename_i h; simp [readV_writeResultThenFlag, h]
  · rename_i h; simp [readV_writeV, h]

/-- Two states with the same register file agree if every register reads the same. -/
theorem v_ext {s t : State} (h : ∀ r : Reg, s.readV r = t.readV r) : s.v = t.v := by
  apply Vector.ext
  intro k hk
  have := h ⟨k, hk⟩
  simpa [State.readV] using this

/-! ## Addresses -/

theorem ea_toNat (k : Nat) : (s.ea k).toNat = (s.i.toNat + k) % 4096 := by
  simp [State.ea]

/-- Effective addresses of offsets below 4096 are distinct (R40). -/
theorem ea_injective {j k : Nat} (hj : j < 4096) (hk : k < 4096) (h : s.ea j = s.ea k) : j = k := by
  have := congrArg BitVec.toNat h
  rw [ea_toNat, ea_toNat] at this
  omega

theorem addIndex_toNat (i : Word) (n : Nat) : (addIndex i n).toNat = (i.toNat + n) % 4096 := by
  simp only [addIndex, BitVec.toNat_ofNat]
  omega

/-! ## Stack -/

/-- Everything a push can do: the stack is not full, the entry at SP is written, SP is one higher, nothing else
changes (R83). -/
theorem push?_eq_some {a : Word} {t : State} (h : s.push? a = some t) :
    s.sp.val < 16 ∧ t = { s with stack := t.stack, sp := t.sp } ∧ t.sp.val = s.sp.val + 1 ∧
      ∀ k : Fin 16, t.stack[k.val] = if k.val = s.sp.val then a else s.stack[k.val] := by
  unfold State.push? at h
  split at h
  · rename_i hlt
    cases h
    refine ⟨hlt, rfl, rfl, fun k => ?_⟩
    by_cases hk : k.val = s.sp.val
    · simp [hk]
    · simp [hk, Ne.symm hk]
  · cases h

theorem push?_isSome {a : Word} (h : s.sp.val < 16) : ∃ t, s.push? a = some t := ⟨_, dif_pos h⟩

theorem push?_none {a : Word} (h : s.sp.val = 16) : s.push? a = none := by
  simp [State.push?, h]

/-- Everything a pop can do: the stack is not empty, the value is the entry below SP, SP is one lower, nothing
else changes (R81, R14). -/
theorem pop?_eq_some {a : Word} {t : State} (h : s.pop? = some (a, t)) :
    s.sp.val ≠ 0 ∧ t = { s with sp := t.sp } ∧ t.sp.val + 1 = s.sp.val ∧
      ∀ k : Fin 16, k.val = t.sp.val → a = s.stack[k.val] := by
  unfold State.pop? at h
  split at h
  · cases h
  · rename_i hne
    cases h
    refine ⟨hne, rfl, ?_, fun k hk => ?_⟩
    · show s.sp.val - 1 + 1 = s.sp.val
      omega
    · replace hk : k.val = s.sp.val - 1 := hk
      simp [hk]

theorem pop?_isSome (h : s.sp.val ≠ 0) : ∃ a t, s.pop? = some (a, t) := ⟨_, _, dif_neg h⟩

theorem pop?_none (h : s.sp.val = 0) : s.pop? = none := dif_pos h

/-! ## Keypad and timers -/

theorem keyAt?_some {key : Keypad} {k : Byte} (h : k.toNat < 16) :
    keyAt? key k = some (key[k.toNat]'h) := dif_pos h

theorem keyAt?_none {key : Keypad} {k : Byte} (h : 15 < k.toNat) : keyAt? key k = none :=
  dif_neg (by omega)

theorem firstPressed_none {key : Keypad} : firstPressed key = none ↔ ∀ k : Reg, key[k.val] = false := by
  simp [firstPressed, List.find?_eq_none]

/-- The key found is pressed and every lower one is up (R133). -/
theorem firstPressed_some {key : Keypad} {k : Reg} (h : firstPressed key = some k) :
    key[k.val] = true ∧ ∀ j : Reg, j < k → key[j.val] = false := by
  obtain ⟨hk, i, hi, hik, hj⟩ := List.find?_eq_some_iff_getElem.1 h
  refine ⟨hk, fun j hjk => ?_⟩
  have hik' : i = k.val := by
    have := congrArg Fin.val hik
    simpa using this
  have hji : j.val < i := by rw [hik']; exact hjk
  simpa using hj j.val hji

theorem countDown_toNat (t : Byte) : (countDown t).toNat = t.toNat - 1 := by
  have := t.isLt
  simp only [countDown, BitVec.toNat_ofNat]
  omega

theorem flagOf_eq_one {c : Bool} : flagOf c = 1 ↔ c = true := by cases c <;> decide

theorem flagOf_eq_zero {c : Bool} : flagOf c = 0 ↔ c = false := by cases c <;> decide

/-! ## Bulk transfers -/

/-- The stored registers change nothing but memory. -/
theorem storeRegs_eq (n : Nat) : s.storeRegs n = { s with mem := (s.storeRegs n).mem } := by
  induction n with
  | zero => rfl
  | succ n ih =>
    have h : s.storeRegs (n + 1) = (s.storeRegs n).writeByte (s.ea n) (s.readV (regOf n)) := by
      simp [State.storeRegs, List.range_succ]
    rw [h]
    conv_lhs => rw [ih]
    conv_rhs => rw [ih]
    rfl

theorem storeRegs_succ (n : Nat) :
    s.storeRegs (n + 1) = (s.storeRegs n).writeByte (s.ea n) (s.readV (regOf n)) := by
  simp [State.storeRegs, List.range_succ]

theorem storeRegs_wf {s : State} (h : s.mem.wf) (n : Nat) : (s.storeRegs n).mem.wf := by
  induction n with
  | zero => exact h
  | succ n ih => rw [storeRegs_succ]; exact writeByte_wf ih _ _

/-- Outside the stored bytes memory is as before (R144). -/
theorem storeRegs_read_other {n : Nat} {a : Addr} (h : ∀ k < n, a ≠ s.ea k) :
    (s.storeRegs n).readByte a = s.readByte a := by
  induction n with
  | zero => rfl
  | succ n ih =>
    rw [storeRegs_succ, readByte_writeByte_other _ _ (h n (by omega))]
    exact ih fun k hk => h k (by omega)

/-- The stored bytes hold the registers (R144). -/
theorem storeRegs_read {s : State} (hm : s.mem.wf) {n k : Nat} (hn : n ≤ 4096) (hk : k < n) :
    (s.storeRegs n).readByte (s.ea k) = s.readV (regOf k) := by
  induction n with
  | zero => omega
  | succ n ih =>
    rw [storeRegs_succ]
    by_cases hkn : k = n
    · subst hkn
      exact readByte_writeByte_same (storeRegs_wf hm _) _ _
    · have hne : s.ea k ≠ s.ea n := fun he => hkn (ea_injective s (by omega) (by omega) he)
      rw [readByte_writeByte_other _ _ hne]
      exact ih (by omega) (by omega)

theorem loadRegs_succ (n : Nat) :
    s.loadRegs (n + 1) = (s.loadRegs n).writeV (regOf n) (s.readByte (s.ea n)) := by
  simp [State.loadRegs, List.range_succ]

/-- The loaded registers change nothing but the register file. -/
theorem loadRegs_eq (n : Nat) : s.loadRegs n = { s with v := (s.loadRegs n).v } := by
  induction n with
  | zero => rfl
  | succ n ih =>
    rw [loadRegs_succ]
    conv_lhs => rw [ih]
    conv_rhs => rw [ih]
    rfl

/-- V[0] to V[n - 1] hold the bytes at EA(0) to EA(n - 1), the others are as before (R145). -/
theorem loadRegs_readV {n : Nat} (hn : n ≤ 16) (r : Reg) :
    (s.loadRegs n).readV r = if r.val < n then s.readByte (s.ea r.val) else s.readV r := by
  induction n with
  | zero => simp [State.loadRegs]
  | succ n ih =>
    rw [loadRegs_succ, readV_writeV, ih (by omega)]
    have hv : (regOf n).val = n := regOf_val (by omega)
    by_cases h : r = regOf n
    · subst h; simp [hv]
    · have hne : r.val ≠ n := fun he => h (Fin.ext (by rw [hv, he]))
      by_cases hlt : r.val < n
      · simp [h, hlt, Nat.lt_succ_of_lt hlt]
      · have : ¬ r.val < n + 1 := by omega
        simp [h, hlt, this]

/-! ## The cycle and the step -/

/-- Everything a cycle can do: a fetch fault, or the instruction at PC. -/
theorem cycle_cases {t : State} (h : s.cycle = .next t) :
    (lastFetch < s.pc.toNat ∧ t = s.raiseFault .fetchRange s.pc 0) ∨
    (s.pc.toNat ≤ lastFetch ∧ ∃ u, exec (decode s.fetchWord) s.advancePc = .next u ∧
      t = u.endCycle s.fetchWord) := by
  unfold State.cycle at h
  split at h
  · rename_i hpc
    exact .inl ⟨hpc, by simpa using h.symm⟩
  · rename_i hpc
    refine .inr ⟨by omega, ?_⟩
    split at h
    · rename_i u hu
      exact ⟨u, hu, by simpa using h.symm⟩
    · rename_i r _; exact nomatch r
    · exact nomatch h

/-- Everything a step can do: nothing when stopped, a tick when the frame is over, else a cycle. -/
theorem step_cases {t : State} (h : step s = .next t) :
    (s.status ≠ .running ∧ t = s) ∨
    (s.status = .running ∧ s.cyclesLeft = 0 ∧ t = s.tick) ∨
    (s.status = .running ∧ s.cyclesLeft ≠ 0 ∧ s.cycle = .next t) := by
  unfold step at h
  split at h
  · rename_i hs
    split at h
    · rename_i hc
      exact .inr (.inl ⟨hs, hc, by simpa using h.symm⟩)
    · rename_i hc
      exact .inr (.inr ⟨hs, by omega, h⟩)
  · rename_i hs
    exact .inl ⟨by simp [hs], by simpa using h.symm⟩
  · rename_i hs
    exact .inl ⟨by simp [hs], by simpa using h.symm⟩

/-- A run of one step more, from what the first step answers. -/
theorem run_succ_of_step {t : State} (n : Nat) (h : step s = .next t) :
    Host.Core.run Sys2Proof.core (n + 1) s = Host.Core.run Sys2Proof.core n t := by
  simp only [Host.Core.run]
  rw [show Sys2Proof.core.step s = .next t from h]

end Sys2Proof.Machine
end

