-- ==== Sys2Proof/Laws/Display.lean ====
section
/-! SUPPORT. The framebuffer operations pixel by pixel. -/

namespace Sys2Proof.Machine

theorem wrapRow_val (k : Nat) : (wrapRow k).val = k % 32 := rfl

theorem wrapColumn_val (k : Nat) : (wrapColumn k).val = k % 64 := rfl

/-- A framebuffer is its pixels. -/
theorem framebuffer_ext {f g : Framebuffer} (h : ∀ r c, pixel f r c = pixel g r c) : f = g := by
  apply Vector.ext
  intro r hr
  apply Vector.ext
  intro c hc
  exact h ⟨r, hr⟩ ⟨c, hc⟩

@[simp] theorem pixel_blankScreen (r : Fin 32) (c : Fin 64) : pixel blankScreen r c = false := by
  simp [pixel, blankScreen]

/-- An inversion inverts its own pixel and no other. -/
theorem pixel_flipPixel (fb : Framebuffer) (r q : Fin 32) (c d : Fin 64) :
    pixel (flipPixel fb r c) q d = (pixel fb q d ^^ decide (q = r ∧ d = c)) := by
  unfold pixel flipPixel
  by_cases hr : q = r
  · subst hr
    by_cases hc : d = c
    · subst hc; simp [pixel]
    · have : c.val ≠ d.val := fun he => hc (Fin.ext he.symm)
      simp [hc, this]
  · have : r.val ≠ q.val := fun he => hr (Fin.ext he.symm)
    simp [hr, this]

/-- A sprite pixel is drawn: it is inside the screen, or the edge policy wraps it (R123). -/
def drawn (clip : Bool) (row col : Nat) : Prop := clip = true → col ≤ 63 ∧ row ≤ 31

theorem plot_drawn {clip : Bool} {row col : Nat} (h : drawn clip row col) (d : Canvas) :
    plot clip row col d =
      (flipPixel d.1 (wrapRow row) (wrapColumn col), d.2 || pixel d.1 (wrapRow row) (wrapColumn col)) := by
  unfold plot
  rw [if_neg]
  cases clip with
  | false => simp
  | true =>
    obtain ⟨hc, hr⟩ := h rfl
    have h1 : ¬ 63 < col := by omega
    have h2 : ¬ 31 < row := by omega
    simp [h1, h2]

theorem plot_skipped {clip : Bool} {row col : Nat} (h : ¬ drawn clip row col) (d : Canvas) :
    plot clip row col d = d := by
  unfold plot
  rw [if_pos]
  cases clip with
  | false => exact absurd (fun h => nomatch h) h
  | true =>
    by_contra hn
    refine h fun _ => ?_
    simp only [Bool.true_and, Bool.or_eq_true, decide_eq_true_eq, not_or, not_lt] at hn
    exact hn

/-- One more sprite column of a row. -/
theorem plotRow_step (clip : Bool) (row xp : Nat) (b : Byte) (d : Canvas) (n : Nat) :
    (List.range (n + 1)).foldl (fun d c => if spriteBit b c then plot clip row (xp + c) d else d) d =
      (if spriteBit b n then plot clip row (xp + n)
          ((List.range n).foldl (fun d c => if spriteBit b c then plot clip row (xp + c) d else d) d)
        else (List.range n).foldl (fun d c => if spriteBit b c then plot clip row (xp + c) d else d) d) := by
  simp [List.range_succ]

open Classical in
/-- Everything one sprite pixel does: it inverts the pixel it lands on and no other, and the collision is set if
that pixel was on (R121, R123). -/
theorem plot_spec (clip : Bool) (row col : Nat) (d : Canvas) :
    (∀ r c, pixel (plot clip row col d).1 r c =
      (pixel d.1 r c ^^ decide (drawn clip row col ∧ row % 32 = r.val ∧ col % 64 = c.val))) ∧
    ((plot clip row col d).2 = true ↔
      d.2 = true ∨ drawn clip row col ∧ pixel d.1 (wrapRow row) (wrapColumn col) = true) := by
  by_cases h : drawn clip row col
  · rw [plot_drawn h]
    refine ⟨fun r c => ?_, by simp [h]⟩
    have hr : r = wrapRow row ↔ row % 32 = r.val := by rw [Fin.ext_iff, wrapRow_val]; exact eq_comm
    have hc : c = wrapColumn col ↔ col % 64 = c.val := by rw [Fin.ext_iff, wrapColumn_val]; exact eq_comm
    rw [pixel_flipPixel]
    simp [h, hr, hc]
  · rw [plot_skipped h]
    simp [h]

/-- One of the first m columns of a sprite row lands on the pixel (r, c). -/
def rowCovers (clip : Bool) (row xp : Nat) (b : Byte) (m : Nat) (r : Fin 32) (c : Fin 64) : Prop :=
  ∃ k, k < m ∧ spriteBit b k = true ∧ drawn clip row (xp + k) ∧ row % 32 = r.val ∧ (xp + k) % 64 = c.val

theorem rowCovers_succ {clip : Bool} {row xp : Nat} {b : Byte} {m : Nat} {r : Fin 32} {c : Fin 64} :
    rowCovers clip row xp b (m + 1) r c ↔ rowCovers clip row xp b m r c ∨
      spriteBit b m = true ∧ drawn clip row (xp + m) ∧ row % 32 = r.val ∧ (xp + m) % 64 = c.val := by
  constructor
  · rintro ⟨k, hk, h⟩
    by_cases hkm : k = m
    · subst hkm; exact .inr h
    · exact .inl ⟨k, by omega, h⟩
  · rintro (⟨k, hk, h⟩ | h)
    · exact ⟨k, by omega, h⟩
    · exact ⟨m, by omega, h⟩

open Classical in
/-- The first m columns of a sprite row invert the pixels they cover, each once. -/
theorem plotRow_spec (clip : Bool) (row xp : Nat) (b : Byte) (d : Canvas) (m : Nat) (hm : m ≤ 8) :
    let e := (List.range m).foldl (fun d c => if spriteBit b c then plot clip row (xp + c) d else d) d
    (∀ r c, pixel e.1 r c = (pixel d.1 r c ^^ decide (rowCovers clip row xp b m r c))) ∧
    (e.2 = true ↔ d.2 = true ∨ ∃ r c, rowCovers clip row xp b m r c ∧ pixel d.1 r c = true) := by
  induction m with
  | zero => simp [rowCovers]
  | succ m ih =>
    intro e
    obtain ⟨ih1, ih2⟩ := ih (by omega)
    have he : e = _ := plotRow_step clip row xp b d m
    generalize (List.range m).foldl
      (fun d c => if spriteBit b c then plot clip row (xp + c) d else d) d = f at *
    have hdis : ∀ {r : Fin 32} {c : Fin 64},
        drawn clip row (xp + m) ∧ row % 32 = r.val ∧ (xp + m) % 64 = c.val →
        ¬ rowCovers clip row xp b m r c := by
      rintro r c ⟨-, -, h2⟩ ⟨k, hk, -, -, -, h3⟩
      omega
    rw [he]
    by_cases hb : spriteBit b m = true
    · rw [if_pos hb]
      refine ⟨fun r c => ?_, ?_⟩
      · rw [(plot_spec _ _ _ _).1, ih1]
        by_cases hq : drawn clip row (xp + m) ∧ row % 32 = r.val ∧ (xp + m) % 64 = c.val
        · have h2 : rowCovers clip row xp b (m + 1) r c := rowCovers_succ.2 (.inr ⟨hb, hq⟩)
          simp [hdis hq, hq, h2]
        · have h2 : rowCovers clip row xp b (m + 1) r c ↔ rowCovers clip row xp b m r c := by
            rw [rowCovers_succ]; tauto
          simp [hq, h2]
      · rw [(plot_spec _ _ _ f).2, ih2, ih1]
        constructor
        · rintro ((h | ⟨r, c, h1, h2⟩) | ⟨h1, h2⟩)
          · exact .inl h
          · exact .inr ⟨r, c, rowCovers_succ.2 (.inl h1), h2⟩
          · have hq : drawn clip row (xp + m) ∧ row % 32 = (wrapRow row).val ∧
                (xp + m) % 64 = (wrapColumn (xp + m)).val := ⟨h1, rfl, rfl⟩
            simp [hdis hq] at h2
            exact .inr ⟨_, _, rowCovers_succ.2 (.inr ⟨hb, hq⟩), h2⟩
        · rintro (h | ⟨r, c, h1, h2⟩)
          · exact .inl (.inl h)
          · rcases rowCovers_succ.1 h1 with h | ⟨_, hq⟩
            · exact .inl (.inr ⟨r, c, h, h2⟩)
            · have hr : wrapRow row = r := Fin.ext (by rw [wrapRow_val]; exact hq.2.1)
              have hc : wrapColumn (xp + m) = c := Fin.ext (by rw [wrapColumn_val]; exact hq.2.2)
              refine .inr ⟨hq.1, ?_⟩
              rw [hr, hc]
              simp [hdis hq, h2]
    · rw [if_neg hb]
      have h3 : ∀ r c, rowCovers clip row xp b (m + 1) r c ↔ rowCovers clip row xp b m r c := by
        intro r c; rw [rowCovers_succ]; tauto
      exact ⟨fun r c => by rw [ih1]; simp [h3], by rw [ih2]; simp [h3]⟩

/-- One more sprite row. -/
theorem plotSprite_succ (s : State) (xp yp n : Nat) :
    s.plotSprite xp yp (n + 1) =
      plotRow s.params.spriteClip (yp + n) xp (s.spriteByte n) (s.plotSprite xp yp n) := by
  simp [State.plotSprite, List.range_succ]

@[simp] theorem plotSprite_zero (s : State) (xp yp : Nat) : s.plotSprite xp yp 0 = (s.fb, false) := rfl

/-- A draw depends on the framebuffer, the edge policy and the sprite's bytes only. -/
theorem plotSprite_congr {s t : State} (hf : t.fb = s.fb) (hc : t.params.spriteClip = s.params.spriteClip)
    (hm : t.mem = s.mem) (hi : t.i = s.i) (xp yp n : Nat) : t.plotSprite xp yp n = s.plotSprite xp yp n := by
  simp [State.plotSprite, State.spriteByte, State.readByte, State.ea, hf, hc, hm, hi]

theorem spriteCovers_succ {s : State} {xp yp n : Nat} {r : Fin 32} {c : Fin 64} :
    s.spriteCovers xp yp (n + 1) r c ↔ s.spriteCovers xp yp n r c ∨
      rowCovers s.params.spriteClip (yp + n) xp (s.spriteByte n) 8 r c := by
  constructor
  · rintro ⟨j, k, hj, hk, h1, h2, h3, h4⟩
    by_cases hjn : j = n
    · subst hjn; exact .inr ⟨k, hk, h1, h2, h3, h4⟩
    · exact .inl ⟨j, k, by omega, hk, h1, h2, h3, h4⟩
  · rintro (⟨j, k, hj, h⟩ | ⟨k, hk, h1, h2, h3, h4⟩)
    · exact ⟨j, k, by omega, h⟩
    · exact ⟨n, k, by omega, hk, h1, h2, h3, h4⟩

open Classical in
/-- Everything a draw does to the screen: it inverts the pixels the sprite covers, each once, and the collision
says whether one of them was on (R121). -/
theorem plotSprite_spec (s : State) (xp yp n : Nat) (hn : n ≤ 32) :
    (∀ r c, pixel (s.plotSprite xp yp n).1 r c =
      (pixel s.fb r c ^^ decide (s.spriteCovers xp yp n r c))) ∧
    ((s.plotSprite xp yp n).2 = true ↔ ∃ r c, pixel s.fb r c = true ∧ s.spriteCovers xp yp n r c) := by
  induction n with
  | zero => simp [State.spriteCovers]
  | succ n ih =>
    obtain ⟨ih1, ih2⟩ := ih (by omega)
    obtain ⟨p1, p2⟩ := plotRow_spec s.params.spriteClip (yp + n) xp (s.spriteByte n)
      (s.plotSprite xp yp n) 8 (by omega)
    have hdis : ∀ {r : Fin 32} {c : Fin 64},
        rowCovers s.params.spriteClip (yp + n) xp (s.spriteByte n) 8 r c →
        ¬ s.spriteCovers xp yp n r c := by
      rintro r c ⟨k, hk, -, -, h1, -⟩ ⟨j, _, hj, -, -, -, h3, -⟩
      omega
    rw [plotSprite_succ]
    unfold plotRow
    refine ⟨fun r c => ?_, ?_⟩
    · rw [p1, ih1]
      by_cases hq : rowCovers s.params.spriteClip (yp + n) xp (s.spriteByte n) 8 r c
      · have h2 := spriteCovers_succ.2 (.inr hq)
        simp [hq, hdis hq, h2]
      · have h2 : s.spriteCovers xp yp (n + 1) r c ↔ s.spriteCovers xp yp n r c := by
          rw [spriteCovers_succ]; tauto
        simp [hq, h2]
    · rw [p2, ih2]
      constructor
      · rintro (⟨r, c, h1, h2⟩ | ⟨r, c, h1, h2⟩)
        · exact ⟨r, c, h1, spriteCovers_succ.2 (.inl h2)⟩
        · rw [ih1] at h2
          simp [hdis h1] at h2
          exact ⟨r, c, h2, spriteCovers_succ.2 (.inr h1)⟩
      · rintro ⟨r, c, h1, h2⟩
        rcases spriteCovers_succ.1 h2 with h | h
        · exact .inl ⟨r, c, h1, h⟩
        · refine .inr ⟨r, c, h, ?_⟩
          rw [ih1]
          simp [hdis h, h1]

end Sys2Proof.Machine
end

