-- ==== Sys2Proof/Laws/Decode.lean ====
section
/-! SUPPORT. What each field reads in a word the encoder builds (30_encoding.md R51, R52). -/

namespace Sys2Proof.Laws

theorem toNat_ofNibbles {a b c d : Nat} (ha : a < 16) (hb : b < 16) (hc : c < 16) (hd : d < 16) :
    (ofNibbles a b c d).toNat = a * 4096 + b * 256 + c * 16 + d := by
  rw [ofNibbles, BitVec.toNat_ofNat]
  omega

theorem toNat_ofNibblesByte {a b c : Nat} (ha : a < 16) (hb : b < 16) (hc : c < 256) :
    (ofNibblesByte a b c).toNat = a * 4096 + b * 256 + c := by
  rw [ofNibblesByte, BitVec.toNat_ofNat]
  omega

theorem toNat_ofAddress {a b : Nat} (ha : a < 16) (hb : b < 4096) : (ofAddress a b).toNat = a * 4096 + b := by
  rw [ofAddress, BitVec.toNat_ofNat]
  omega

theorem toNat_ofIgnored {g k : Nat} (hg : g < 256) (hk : k < 16) : (ofIgnored g k).toNat = g * 16 + k := by
  rw [ofIgnored, BitVec.toNat_ofNat]
  omega

/-! ## The leading nibble -/

theorem bits_leading (w : Word) : bits w 15 12 = w.toNat / 4096 := by
  have := w.isLt
  simp only [bits]
  omega

theorem leading_ofNibbles {a b c d : Nat} (ha : a < 16) (hb : b < 16) (hc : c < 16) (hd : d < 16) :
    bits (ofNibbles a b c d) 15 12 = a := by
  rw [bits_leading, toNat_ofNibbles ha hb hc hd]
  omega

theorem leading_ofNibblesByte {a b c : Nat} (ha : a < 16) (hb : b < 16) (hc : c < 256) :
    bits (ofNibblesByte a b c) 15 12 = a := by
  rw [bits_leading, toNat_ofNibblesByte ha hb hc]
  omega

theorem leading_ofAddress {a b : Nat} (ha : a < 16) (hb : b < 4096) :
    bits (ofAddress a b) 15 12 = a := by
  rw [bits_leading, toNat_ofAddress ha hb]
  omega

theorem leading_ofIgnored {g k : Nat} (hg : g < 256) (hk : k < 16) : bits (ofIgnored g k) 15 12 = 0 := by
  rw [bits_leading, toNat_ofIgnored hg hk]
  omega

/-! ## The selectors -/

theorem low_ofNibbles {a b c d : Nat} (ha : a < 16) (hb : b < 16) (hc : c < 16) (hd : d < 16) :
    bits (ofNibbles a b c d) 3 0 = d := by
  rw [bits, toNat_ofNibbles ha hb hc hd]
  omega

theorem low_ofIgnored {g k : Nat} (hg : g < 256) (hk : k < 16) : bits (ofIgnored g k) 3 0 = k := by
  rw [bits, toNat_ofIgnored hg hk]
  omega

theorem lowByte_ofNibblesByte {a b c : Nat} (ha : a < 16) (hb : b < 16) (hc : c < 256) :
    bits (ofNibblesByte a b c) 7 0 = c := by
  rw [bits, toNat_ofNibblesByte ha hb hc]
  omega

/-! ## The operands -/

theorem regOf_bits {w : Word} {hi lo : Nat} (r : Reg) (h : bits w hi lo = r.val) : regOf (bits w hi lo) = r :=
  Fin.ext (by rw [h]; exact Nat.mod_eq_of_lt r.isLt)

theorem fieldX_ofNibbles {a d : Nat} (ha : a < 16) (x : Reg) {c : Nat} (hc : c < 16) (hd : d < 16) :
    fieldX (ofNibbles a x.val c d) = x :=
  regOf_bits x (by rw [bits, toNat_ofNibbles ha x.isLt hc hd]; have := x.isLt; omega)

theorem fieldY_ofNibbles {a d : Nat} (ha : a < 16) (x y : Reg) (hd : d < 16) :
    fieldY (ofNibbles a x.val y.val d) = y :=
  regOf_bits y (by rw [bits, toNat_ofNibbles ha x.isLt y.isLt hd]; have := y.isLt; omega)

theorem fieldN_ofNibbles {a : Nat} (ha : a < 16) (x y : Reg) (n : Fin 16) :
    fieldN (ofNibbles a x.val y.val n.val) = n :=
  regOf_bits n (low_ofNibbles ha x.isLt y.isLt n.isLt)

theorem ignored3to0_ofNibbles {a : Nat} (ha : a < 16) (x y : Reg) (g : Nibble) :
    ignored3to0 (ofNibbles a x.val y.val g.toNat) = g := by
  rw [ignored3to0, low_ofNibbles ha x.isLt y.isLt g.isLt, BitVec.ofNat_toNat, BitVec.setWidth_eq]

theorem ignored7to4_ofNibbles {a d : Nat} (ha : a < 16) (x : Reg) (g : Nibble) (hd : d < 16) :
    ignored7to4 (ofNibbles a x.val g.toNat d) = g := by
  have h : bits (ofNibbles a x.val g.toNat d) 7 4 = g.toNat := by
    rw [bits, toNat_ofNibbles ha x.isLt g.isLt hd]
    have := g.isLt
    omega
  rw [ignored7to4, h, BitVec.ofNat_toNat, BitVec.setWidth_eq]

theorem fieldX_ofNibblesByte {a c : Nat} (ha : a < 16) (x : Reg) (hc : c < 256) :
    fieldX (ofNibblesByte a x.val c) = x :=
  regOf_bits x (by rw [bits, toNat_ofNibblesByte ha x.isLt hc]; have := x.isLt; omega)

theorem fieldKK_ofNibblesByte {a : Nat} (ha : a < 16) (x : Reg) (kk : Byte) :
    fieldKK (ofNibblesByte a x.val kk.toNat) = kk := by
  rw [fieldKK, lowByte_ofNibblesByte ha x.isLt kk.isLt, BitVec.ofNat_toNat, BitVec.setWidth_eq]

theorem fieldNNN_ofAddress {a : Nat} (ha : a < 16) (nnn : Addr) : fieldNNN (ofAddress a nnn.toNat) = nnn := by
  have h : bits (ofAddress a nnn.toNat) 11 0 = nnn.toNat := by
    rw [bits, toNat_ofAddress ha nnn.isLt]
    have := nnn.isLt
    omega
  rw [fieldNNN, h, BitVec.ofNat_toNat, BitVec.setWidth_eq]

theorem ignored11to4_ofIgnored {k : Nat} (g : Byte) (hk : k < 16) : ignored11to4 (ofIgnored g.toNat k) = g := by
  have h : bits (ofIgnored g.toNat k) 11 4 = g.toNat := by
    rw [bits, toNat_ofIgnored g.isLt hk]
    have := g.isLt
    omega
  rw [ignored11to4, h, BitVec.ofNat_toNat, BitVec.setWidth_eq]

end Sys2Proof.Laws
end

