-- ==== Sys2Proof/Laws/PerInstr.lean ====
section
/-! SUPPORT. Facts about each instruction as syntax, one lemma per constructor. Family EncodedFamily: the leading
nibble of an instruction's word is its family's (30_encoding.md R53). -/

namespace Sys2Proof.Laws

/-- The leading nibble of an instruction's family; an unmapped word carries its own (R53, R56). -/
def family : Instr → Nat
  | .cls _ => 0x0
  | .ret _ => 0x0
  | .jp _ => 0x1
  | .call _ => 0x2
  | .seByte _ _ => 0x3
  | .sneByte _ _ => 0x4
  | .seReg _ _ _ => 0x5
  | .ldByte _ _ => 0x6
  | .addByte _ _ => 0x7
  | .ldReg _ _ => 0x8
  | .orReg _ _ => 0x8
  | .andReg _ _ => 0x8
  | .xorReg _ _ => 0x8
  | .addReg _ _ => 0x8
  | .subReg _ _ => 0x8
  | .shrReg _ _ => 0x8
  | .subnReg _ _ => 0x8
  | .shlReg _ _ => 0x8
  | .sneReg _ _ _ => 0x9
  | .ldI _ => 0xA
  | .jpV0 _ => 0xB
  | .rnd _ _ => 0xC
  | .drw _ _ _ => 0xD
  | .skp _ _ => 0xE
  | .sknp _ _ => 0xE
  | .ldVxDt _ => 0xF
  | .ldVxK _ => 0xF
  | .ldDtVx _ => 0xF
  | .ldStVx _ => 0xF
  | .addI _ => 0xF
  | .ldF _ => 0xF
  | .ldB _ => 0xF
  | .store _ => 0xF
  | .load _ => 0xF
  | .nop w => w.toNat / 4096

/-- The word of i has the leading nibble of i's family. -/
def EncodedFamily.Statement (i : Instr) : Prop := bits (encode i) 15 12 = family i

theorem EncodedFamily.cls (g : Byte) : EncodedFamily.Statement (.cls g) :=
  leading_ofIgnored g.isLt (by decide)

theorem EncodedFamily.ret (g : Byte) : EncodedFamily.Statement (.ret g) :=
  leading_ofIgnored g.isLt (by decide)

theorem EncodedFamily.jp (nnn : Addr) : EncodedFamily.Statement (.jp nnn) :=
  leading_ofAddress (by decide) nnn.isLt

theorem EncodedFamily.call (nnn : Addr) : EncodedFamily.Statement (.call nnn) :=
  leading_ofAddress (by decide) nnn.isLt

theorem EncodedFamily.seByte (x : Reg) (kk : Byte) : EncodedFamily.Statement (.seByte x kk) :=
  leading_ofNibblesByte (by decide) x.isLt kk.isLt

theorem EncodedFamily.sneByte (x : Reg) (kk : Byte) : EncodedFamily.Statement (.sneByte x kk) :=
  leading_ofNibblesByte (by decide) x.isLt kk.isLt

theorem EncodedFamily.seReg (x : Reg) (y : Reg) (g : Nibble) : EncodedFamily.Statement (.seReg x y g) :=
  leading_ofNibbles (by decide) x.isLt y.isLt g.isLt

theorem EncodedFamily.ldByte (x : Reg) (kk : Byte) : EncodedFamily.Statement (.ldByte x kk) :=
  leading_ofNibblesByte (by decide) x.isLt kk.isLt

theorem EncodedFamily.addByte (x : Reg) (kk : Byte) : EncodedFamily.Statement (.addByte x kk) :=
  leading_ofNibblesByte (by decide) x.isLt kk.isLt

theorem EncodedFamily.ldReg (x : Reg) (y : Reg) : EncodedFamily.Statement (.ldReg x y) :=
  leading_ofNibbles (by decide) x.isLt y.isLt (by decide)

theorem EncodedFamily.orReg (x : Reg) (y : Reg) : EncodedFamily.Statement (.orReg x y) :=
  leading_ofNibbles (by decide) x.isLt y.isLt (by decide)

theorem EncodedFamily.andReg (x : Reg) (y : Reg) : EncodedFamily.Statement (.andReg x y) :=
  leading_ofNibbles (by decide) x.isLt y.isLt (by decide)

theorem EncodedFamily.xorReg (x : Reg) (y : Reg) : EncodedFamily.Statement (.xorReg x y) :=
  leading_ofNibbles (by decide) x.isLt y.isLt (by decide)

theorem EncodedFamily.addReg (x : Reg) (y : Reg) : EncodedFamily.Statement (.addReg x y) :=
  leading_ofNibbles (by decide) x.isLt y.isLt (by decide)

theorem EncodedFamily.subReg (x : Reg) (y : Reg) : EncodedFamily.Statement (.subReg x y) :=
  leading_ofNibbles (by decide) x.isLt y.isLt (by decide)

theorem EncodedFamily.shrReg (x : Reg) (y : Reg) : EncodedFamily.Statement (.shrReg x y) :=
  leading_ofNibbles (by decide) x.isLt y.isLt (by decide)

theorem EncodedFamily.subnReg (x : Reg) (y : Reg) : EncodedFamily.Statement (.subnReg x y) :=
  leading_ofNibbles (by decide) x.isLt y.isLt (by decide)

theorem EncodedFamily.shlReg (x : Reg) (y : Reg) : EncodedFamily.Statement (.shlReg x y) :=
  leading_ofNibbles (by decide) x.isLt y.isLt (by decide)

theorem EncodedFamily.sneReg (x : Reg) (y : Reg) (g : Nibble) : EncodedFamily.Statement (.sneReg x y g) :=
  leading_ofNibbles (by decide) x.isLt y.isLt g.isLt

theorem EncodedFamily.ldI (nnn : Addr) : EncodedFamily.Statement (.ldI nnn) :=
  leading_ofAddress (by decide) nnn.isLt

theorem EncodedFamily.jpV0 (nnn : Addr) : EncodedFamily.Statement (.jpV0 nnn) :=
  leading_ofAddress (by decide) nnn.isLt

theorem EncodedFamily.rnd (x : Reg) (kk : Byte) : EncodedFamily.Statement (.rnd x kk) :=
  leading_ofNibblesByte (by decide) x.isLt kk.isLt

theorem EncodedFamily.drw (x : Reg) (y : Reg) (n : Fin 16) : EncodedFamily.Statement (.drw x y n) :=
  leading_ofNibbles (by decide) x.isLt y.isLt n.isLt

theorem EncodedFamily.skp (x : Reg) (g : Nibble) : EncodedFamily.Statement (.skp x g) :=
  leading_ofNibbles (by decide) x.isLt g.isLt (by decide)

theorem EncodedFamily.sknp (x : Reg) (g : Nibble) : EncodedFamily.Statement (.sknp x g) :=
  leading_ofNibbles (by decide) x.isLt g.isLt (by decide)

theorem EncodedFamily.ldVxDt (x : Reg) : EncodedFamily.Statement (.ldVxDt x) :=
  leading_ofNibblesByte (by decide) x.isLt (by decide)

theorem EncodedFamily.ldVxK (x : Reg) : EncodedFamily.Statement (.ldVxK x) :=
  leading_ofNibblesByte (by decide) x.isLt (by decide)

theorem EncodedFamily.ldDtVx (x : Reg) : EncodedFamily.Statement (.ldDtVx x) :=
  leading_ofNibblesByte (by decide) x.isLt (by decide)

theorem EncodedFamily.ldStVx (x : Reg) : EncodedFamily.Statement (.ldStVx x) :=
  leading_ofNibblesByte (by decide) x.isLt (by decide)

theorem EncodedFamily.addI (x : Reg) : EncodedFamily.Statement (.addI x) :=
  leading_ofNibblesByte (by decide) x.isLt (by decide)

theorem EncodedFamily.ldF (x : Reg) : EncodedFamily.Statement (.ldF x) :=
  leading_ofNibblesByte (by decide) x.isLt (by decide)

theorem EncodedFamily.ldB (x : Reg) : EncodedFamily.Statement (.ldB x) :=
  leading_ofNibblesByte (by decide) x.isLt (by decide)

theorem EncodedFamily.store (x : Reg) : EncodedFamily.Statement (.store x) :=
  leading_ofNibblesByte (by decide) x.isLt (by decide)

theorem EncodedFamily.load (x : Reg) : EncodedFamily.Statement (.load x) :=
  leading_ofNibblesByte (by decide) x.isLt (by decide)

theorem EncodedFamily.nop (w : Word) : EncodedFamily.Statement (.nop w) := bits_leading w

end Sys2Proof.Laws
end

