-- ==== Sys2Proof/Tests/Slice0.lean ====
section
/-! SUPPORT. The model's own tests, then a witness for the hypotheses of each statement. The expected values are
those of spec/95_test_vectors.md (the row is named) or are worked out by hand from the rule named. -/

namespace Sys2Proof.Tests

open Sys2Proof Sys2Proof.Machine

/-! ## Helpers -/

/-- Every quirk off, ten cycles in a frame. -/
def quirksOff : Params := ⟨false, false, false, false, false, false, 10⟩

/-- Every quirk on. -/
def quirksOn : Params := ⟨true, true, true, true, false, false, 10⟩

/-- `SPRITE_CLIP`, `STRICT_DECODE` on. -/
def strictClip : Params := ⟨false, false, false, false, true, true, 10⟩

/-- The reset state with given parameters and a frame of ten cycles begun. -/
def off : State := { State.reset with params := quirksOff, cyclesLeft := 10 }
def on : State := { State.reset with params := quirksOn, cyclesLeft := 10 }
def strict : State := { State.reset with params := strictClip, cyclesLeft := 10 }

/-- Sets some registers. -/
def regs (s : State) (l : List (Reg × Byte)) : State := l.foldl (fun t p => t.writeV p.1 p.2) s

/-- Stores some bytes. -/
def bytes (s : State) (l : List (Addr × Byte)) : State := l.foldl (fun t p => t.writeByte p.1 p.2) s

/-- Turns some pixels on, given as (x, y). -/
def lit (s : State) (l : List (Fin 64 × Fin 32)) : State :=
  s.setFb (l.foldl (fun f p => flipPixel f p.2 p.1) s.fb)

/-- Presses some keys. -/
def keyed (s : State) (l : List (Fin 16)) : State :=
  { s with key := l.foldl (fun k j => k.set j.val true j.isLt) s.key }

/-- The state after one step with the word w at PC. -/
def ran (s : State) (w : Word) : State :=
  match step (s.placeWord w) with
  | .next t => t
  | .fault _ => s
  | .refused _ => s

/-- The pixels that are on in a row, leftmost first. -/
def rowOn (s : State) (y : Fin 32) : List Nat := ((List.finRange 64).filter (fun x => pixel s.fb y x)).map Fin.val

/-- The values of some registers. -/
def vs (s : State) (l : List Reg) : List Byte := l.map s.readV

/-- The bytes at some addresses. -/
def peek (s : State) (l : List Addr) : List Byte := l.map s.readByte

/-! ## Well-formedness: an ill-formed term is refused -/

theorem test_wf_refuses_nop_of_cls : (Instr.nop 0x00E0).wf = false := by decide
theorem test_wf_refuses_nop_of_ret : (Instr.nop 0x0FFE).wf = false := by decide
theorem test_wf_refuses_nop_of_jp : (Instr.nop 0x1000).wf = false := by decide
theorem test_wf_refuses_nop_of_alu : (Instr.nop 0x8AB7).wf = false := by decide
theorem test_wf_refuses_nop_of_sknp : (Instr.nop 0xE2A1).wf = false := by decide
theorem test_wf_refuses_nop_of_load : (Instr.nop 0xFF65).wf = false := by decide
theorem test_wf_accepts_unmapped : (Instr.nop 0xFFFF).wf = true := by decide

/-! ## Decoding: for every row of R56 words written out bit by bit from its mask and match (95_test_vectors.md 2.8
and the formats of R51), the second with every operand bit set -/

theorem test_decode_cls : decode 0x00E0 = .cls 0x0E ∧ decode 0x0FF0 = .cls 0xFF := by decide
theorem test_decode_ret : decode 0x00EE = .ret 0x0E ∧ decode 0x0FFE = .ret 0xFF := by decide
theorem test_decode_jp : decode 0x1ABC = .jp 0xABC ∧ decode 0x1FFF = .jp 0xFFF := by decide
theorem test_decode_call : decode 0x2345 = .call 0x345 ∧ decode 0x2FFF = .call 0xFFF := by decide
theorem test_decode_seByte : decode 0x3342 = .seByte 3 0x42 ∧ decode 0x3FFF = .seByte 15 0xFF := by decide
theorem test_decode_sneByte : decode 0x4343 = .sneByte 3 0x43 ∧ decode 0x4FFF = .sneByte 15 0xFF := by decide
theorem test_decode_seReg : decode 0x5AB7 = .seReg 10 11 7 ∧ decode 0x5FFF = .seReg 15 15 15 := by decide
theorem test_decode_ldByte : decode 0x6A02 = .ldByte 10 2 ∧ decode 0x6FFF = .ldByte 15 0xFF := by decide
theorem test_decode_addByte : decode 0x7105 = .addByte 1 5 ∧ decode 0x7FFF = .addByte 15 0xFF := by decide
theorem test_decode_ldReg : decode 0x8AB0 = .ldReg 10 11 ∧ decode 0x8FF0 = .ldReg 15 15 := by decide
theorem test_decode_orReg : decode 0x8121 = .orReg 1 2 ∧ decode 0x8FF1 = .orReg 15 15 := by decide
theorem test_decode_andReg : decode 0x8122 = .andReg 1 2 ∧ decode 0x8FF2 = .andReg 15 15 := by decide
theorem test_decode_xorReg : decode 0x8123 = .xorReg 1 2 ∧ decode 0x8FF3 = .xorReg 15 15 := by decide
theorem test_decode_addReg : decode 0x8124 = .addReg 1 2 ∧ decode 0x8FF4 = .addReg 15 15 := by decide
theorem test_decode_subReg : decode 0x8125 = .subReg 1 2 ∧ decode 0x8FF5 = .subReg 15 15 := by decide
theorem test_decode_shrReg : decode 0x8126 = .shrReg 1 2 ∧ decode 0x8FF6 = .shrReg 15 15 := by decide
theorem test_decode_subnReg : decode 0x8127 = .subnReg 1 2 ∧ decode 0x8FF7 = .subnReg 15 15 := by decide
theorem test_decode_shlReg : decode 0x8ABE = .shlReg 10 11 ∧ decode 0x8FFE = .shlReg 15 15 := by decide
theorem test_decode_sneReg : decode 0x9AB1 = .sneReg 10 11 1 ∧ decode 0x9FFF = .sneReg 15 15 15 := by decide
theorem test_decode_ldI : decode 0xA300 = .ldI 0x300 ∧ decode 0xAFFF = .ldI 0xFFF := by decide
theorem test_decode_jpV0 : decode 0xB123 = .jpV0 0x123 ∧ decode 0xBFFF = .jpV0 0xFFF := by decide
theorem test_decode_rnd : decode 0xC10F = .rnd 1 0x0F ∧ decode 0xCFFF = .rnd 15 0xFF := by decide
theorem test_decode_drw : decode 0xD125 = .drw 1 2 5 ∧ decode 0xDFFF = .drw 15 15 15 := by decide
theorem test_decode_skp : decode 0xE29E = .skp 2 9 ∧ decode 0xEFFE = .skp 15 15 := by decide
theorem test_decode_sknp : decode 0xE201 = .sknp 2 0 ∧ decode 0xEFF1 = .sknp 15 15 := by decide
theorem test_decode_ldVxDt : decode 0xF207 = .ldVxDt 2 ∧ decode 0xFF07 = .ldVxDt 15 := by decide
theorem test_decode_ldVxK : decode 0xF30A = .ldVxK 3 ∧ decode 0xFF0A = .ldVxK 15 := by decide
theorem test_decode_ldDtVx : decode 0xF215 = .ldDtVx 2 ∧ decode 0xFF15 = .ldDtVx 15 := by decide
theorem test_decode_ldStVx : decode 0xF218 = .ldStVx 2 ∧ decode 0xFF18 = .ldStVx 15 := by decide
theorem test_decode_addI : decode 0xF21E = .addI 2 ∧ decode 0xFF1E = .addI 15 := by decide
theorem test_decode_ldF : decode 0xF029 = .ldF 0 ∧ decode 0xFF29 = .ldF 15 := by decide
theorem test_decode_ldB : decode 0xF033 = .ldB 0 ∧ decode 0xFF33 = .ldB 15 := by decide
theorem test_decode_store : decode 0xF355 = .store 3 ∧ decode 0xFF55 = .store 15 := by decide
theorem test_decode_load : decode 0xF265 = .load 2 ∧ decode 0xFF65 = .load 15 := by decide
theorem test_decode_nop : decode 0x8AB9 = .nop 0x8AB9 ∧ decode 0xF030 = .nop 0xF030 := by decide

theorem test_decode_table_word : decodeTableWord 16 0x6A02 = some (.ldByte 10 2) := by decide

/-! ## One step each -/

/-- F1. -/
theorem test_jp :
    (ran off 0x1ABC).pc = 0x0ABC := by decide
/-- F4. -/
theorem test_call :
    (ran off 0x2345).pc = 0x0345 ∧
    (ran off 0x2345).stack[0] = 0x0202 := by decide
/-- F6. -/
theorem test_call_overflow :
    (ran { off with sp := 16 } 0x2345).status = .faulted .stackOverflow 0x0200 0x2345 := by decide
/-- F11. -/
theorem test_ret :
    (ran { off with sp := 1, stack := off.stack.set 0 0x1234 } 0x00EE).pc = 0x1234 := by decide
/-- F9. -/
theorem test_ret_underflow :
    (ran off 0x00EE).status = .faulted .stackUnderflow 0x0200 0x00EE := by decide
/-- F13. -/
theorem test_seByte_taken :
    (ran (regs off [(3, 0x42)]) 0x3342).pc = 0x0204 := by decide
/-- F15. -/
theorem test_sneByte_not_taken :
    (ran (regs off [(3, 0x42)]) 0x4342).pc = 0x0202 := by decide
/-- F18. -/
theorem test_seReg_not_taken :
    (ran (regs off [(1, 7), (2, 8)]) 0x5120).pc = 0x0202 := by decide
/-- F23. -/
theorem test_sneReg_taken :
    (ran (regs off [(1, 7), (2, 8)]) 0x9127).pc = 0x0204 := by decide
/-- F25. -/
theorem test_jpV0_modern :
    (ran (regs off [(0, 0x77), (1, 5)]) 0xB123).pc = 0x0028 := by decide
/-- F27. -/
theorem test_jpV0_legacy :
    (ran (regs on [(0, 0xFF), (15, 0x80)]) 0xBFFF).pc = 0x10FE := by decide
/-- A1, S2. -/
theorem test_ldByte :
    (ran off 0x6A02).readV 10 = 2 ∧
    (ran off 0x6A02).pc = 0x0202 := by decide
/-- A4. -/
theorem test_addByte :
    vs (ran (regs off [(1, 0xFF), (15, 0x55)]) 0x7101) [1, 15] = [0, 0x55] := by decide
/-- A6. -/
theorem test_ldReg :
    vs (ran (regs on [(1, 0x11), (2, 0x22), (15, 0x55)]) 0x8120) [1, 15] = [0x22, 0x55] := by decide
/-- A7. -/
theorem test_orReg :
    vs (ran (regs off [(1, 0x0F), (2, 0xF0), (15, 0x55)]) 0x8121) [1, 15] = [0xFF, 0x55] := by decide
/-- AF13. -/
theorem test_orReg_into_flag :
    (ran (regs on [(15, 0xF0), (1, 0x0F)]) 0x8F11).readV 15 = 0 := by decide
/-- A10. -/
theorem test_andReg :
    vs (ran (regs on [(1, 0x3C), (2, 0x0F), (15, 0x55)]) 0x8122) [1, 15] = [0x0C, 0] := by decide
/-- AF14. -/
theorem test_xorReg :
    vs (ran (regs on [(1, 0xFF), (15, 0x0F)]) 0x81F3) [1, 15] = [0xF0, 0] := by decide
/-- A13, S3. -/
theorem test_addReg :
    vs (ran (regs off [(1, 0xFA), (2, 0x0A)]) 0x8124) [1, 15] = [4, 1] := by decide
/-- AF1. -/
theorem test_addReg_into_flag :
    (ran (regs off [(15, 0xC8), (1, 0x64)]) 0x8F14).readV 15 = 1 := by decide
/-- A19, S4. -/
theorem test_subReg :
    vs (ran (regs off [(1, 3), (2, 5), (15, 1)]) 0x8125) [1, 15] = [0xFE, 0] := by decide
/-- A20. -/
theorem test_subReg_equal :
    vs (ran (regs off [(1, 7), (2, 7)]) 0x8125) [1, 15] = [0, 1] := by decide
/-- A23. -/
theorem test_subnReg :
    vs (ran (regs off [(1, 5), (2, 3), (15, 1)]) 0x8127) [1, 15] = [0xFE, 0] := by decide
/-- A24. -/
theorem test_subnReg_equal :
    vs (ran (regs off [(1, 7), (2, 7)]) 0x8127) [1, 15] = [0, 1] := by decide
/-- A25. -/
theorem test_shrReg_in_place :
    vs (ran (regs off [(1, 5), (2, 0xF0)]) 0x8126) [1, 15] = [2, 1] := by decide
/-- AF10. -/
theorem test_shrReg_copy_of_flag :
    vs (ran (regs on [(1, 0xAA), (15, 3)]) 0x81F6) [1, 15] = [1, 1] := by decide
/-- A28. -/
theorem test_shlReg_in_place :
    vs (ran (regs off [(1, 0x81), (2, 1), (15, 0x55)]) 0x812E) [1, 15] = [2, 1] := by decide
/-- A29. -/
theorem test_shlReg_copy :
    vs (ran (regs on [(1, 0x81), (2, 1), (15, 0x55)]) 0x812E) [1, 15] = [2, 0] := by decide
/-- AU4. -/
theorem test_rnd :
    (ran { off with randAhead := [0xB7] } 0xC10F).readV 1 = 7 ∧
      (ran { off with randAhead := [0xB7] } 0xC10F).randPos = 1 := by decide
/-- F12. -/
theorem test_nop :
    (ran off 0x0123).pc = 0x0202 := by decide
/-- AU3. -/
theorem test_nop_strict :
    (ran strict 0x812D).status = .faulted .illegalInstruction 0x0200 0x812D := by decide
/-- X2. -/
theorem test_cls :
    rowOn (ran (lit off [(5, 5)]) 0x0000) 5 = [] := by decide
/-- X8. -/
theorem test_drw_wraps :
    rowOn (ran (regs (off.setI 0x50) [(1, 0x3E), (2, 0x1F)]) 0xD122) 31 = [0, 1, 62, 63] ∧
      rowOn (ran (regs (off.setI 0x50) [(1, 0x3E), (2, 0x1F)]) 0xD122) 0 = [1, 62] := by decide
/-- X11, with the pixel (3,0) on and so turned off. -/
theorem test_drw_reads_flag_first :
    rowOn (ran (lit (regs (off.setI 0x50) [(15, 3)]) [(0, 0), (3, 0)]) 0xDF12) 0 = [0, 4, 5, 6] ∧
      (ran (lit (regs (off.setI 0x50) [(15, 3)]) [(0, 0), (3, 0)]) 0xDF12).readV 15 = 1 := by decide
/-- K1. -/
theorem test_skp :
    (ran (keyed (regs off [(1, 5)]) [5]) 0xE19E).pc = 0x0204 := by decide
/-- K5. -/
theorem test_skp_range :
    (ran (keyed (regs off [(1, 0x10)]) [0]) 0xE19E).status = .faulted .keyRange 0x0200 0xE19E := by decide
/-- K3. -/
theorem test_sknp :
    (ran (keyed (regs off [(1, 5)]) [5]) 0xE1A1).pc = 0x0202 := by decide
/-- K6. -/
theorem test_sknp_range :
    (ran (regs off [(1, 0xFF)]) 0xE1A1).status = .faulted .keyRange 0x0200 0xE1A1 := by decide
/-- K9. -/
theorem test_ldVxK_waits :
    (ran (regs off [(3, 0x77)]) 0xF30A).pc = 0x0200 ∧
      (ran (regs off [(3, 0x77)]) 0xF30A).readV 3 = 0x77 := by decide
/-- K11. -/
theorem test_ldVxK_least :
    (ran (keyed off [3, 7, 12]) 0xF30A).readV 3 = 3 ∧
      (ran (keyed off [3, 7, 12]) 0xF30A).pc = 0x0202 := by decide
/-- K14. -/
theorem test_ldVxDt :
    (ran (off.setDt 0x2A) 0xF207).readV 2 = 0x2A := by decide
/-- K15. -/
theorem test_ldDtVx :
    (ran (regs off [(2, 0x3C)]) 0xF215).dt = 0x3C := by decide
/-- K17. -/
theorem test_ldStVx :
    (ran (off.setSt 9) 0xF218).st = 0 := by decide
/-- M2. -/
theorem test_ldI :
    (ran off 0xAFFF).i = 0x0FFF := by decide
/-- M4. -/
theorem test_addI :
    (ran (regs (off.setI 0xFFF) [(2, 1), (15, 0x55)]) 0xF21E).i = 0 ∧
      (ran (regs (off.setI 0xFFF) [(2, 1), (15, 0x55)]) 0xF21E).readV 15 = 0x55 := by decide
/-- M6, S6. -/
theorem test_ldF :
    (ran (regs off [(0, 0x0A)]) 0xF029).i = 0x82 := by decide
/-- M8. -/
theorem test_ldF_not_masked :
    (ran (regs off [(0, 0xFF)]) 0xF029).i = 0x054B := by decide
/-- M9. -/
theorem test_ldB :
    peek (ran (regs (off.setI 0x300) [(0, 0xFE)]) 0xF033) [0x300, 0x301, 0x302] = [2, 5, 4] := by decide
/-- M11. -/
theorem test_ldB_wraps :
    peek (ran (regs (off.setI 0xFFE) [(0, 7)]) 0xF033) [0xFFE, 0xFFF, 0x000] = [0, 0, 7] := by decide
/-- M12. -/
theorem test_store :
    peek (ran (regs (off.setI 0x300) [(0, 1), (1, 2), (2, 3), (3, 4), (4, 5)]) 0xF355)
      [0x300, 0x303, 0x304] = [1, 4, 0] := by decide
/-- M15. -/
theorem test_store_wraps :
    (ran (regs (on.setI 0xFFF) [(0, 0xAA), (1, 0xBB)]) 0xF155).i = 1 ∧
      peek (ran (regs (on.setI 0xFFF) [(0, 0xAA), (1, 0xBB)]) 0xF155) [0xFFF, 0x000] = [0xAA, 0xBB] := by decide
/-- M16. -/
theorem test_load :
    (ran (regs (off.setI 0x50) [(3, 0x99)]) 0xF265).readV 2 = 0x90 ∧
      (ran (regs (off.setI 0x50) [(3, 0x99)]) 0xF265).readV 3 = 0x99 := by decide
/-- M17. -/
theorem test_load_increments :
    (ran (on.setI 0x50) 0xF265).i = 0x53 := by decide

/-! ## The tick, faults, reset -/

/-- T3 and T1. -/
theorem test_tick_timers :
    ({ off with st := 2, dt := 3 } : State).tick.st = 1 ∧
      ({ off with st := 2, dt := 3 } : State).tick.tone = true := by decide
/-- T5. -/
theorem test_tick_silent :
    ({ off with tone := true } : State).tick.tone = false ∧
      ({ off with tone := true } : State).tick.st = 0 := by decide
/-- E1. -/
theorem test_fetch_range :
    (match step { off with pc := 0x0FFF } with
      | .next t => t.status
      | .fault _ => .running
      | .refused _ => .running) = .faulted .fetchRange 0x0FFF 0 := by decide
/-- E4. -/
theorem test_last_fetch :
    (ran { off with pc := 0x0FFE } 0x1FFE).pc = 0x0FFE := by decide
/-- R183. -/
theorem test_rom_at_origin :
    peek (State.resetWith quirksOff customaryGlyphs [0x60, 0x12] [] []) [0x200, 0x201, 0x202, 0x050] = [0x60, 0x12, 0, 0xF0] :=
  by decide
/-- R6, R164 and C5: 700 instructions per second are 11 cycles a frame. -/
theorem test_toggles :
    (paramsOfToggles true false false true 700).ipt = 11 ∧
      (paramsOfToggles true false false true 700).qMemInc = true := by decide

/-! ## Witnesses: a state and operands that meet the hypotheses of each statement, clause by clause -/

theorem witness_DecodeOfEncodeIsTheInstruction :
    (Instr.drw 15 0 15).wf = true ∧ (Instr.nop 0x00FD).wf = true :=
  by decide
theorem witness_RowsAreSelectedByMaskAndMatch :
    (⟨0xF0FF, 0xF065⟩ : OpRow) ∈ opRows ∧ (0xFF65 : Word) &&& 0xF0FF = 0xF065 ∧
      (∀ r ∈ opRows, (0xFFFF : Word) &&& r.mask ≠ r.pattern) ∧ (∀ w, Instr.jp 0 ≠ .nop w) :=
  ⟨by decide, by decide, by decide, fun _ h => nomatch h⟩
theorem witness_UnmappedWordsAreNoOpsOrIllegal :
    off.params.strictDecode = false ∧ strict.params.strictDecode = true :=
  by decide
/-- A running machine at a jump to itself. -/
def halted : State := bytes off [(0x200, 0x12), (0x201, 0x00)]
/-- A running machine at a call, with a full stack. -/
def overflowing : State := { bytes off [(0x200, 0x23), (0x201, 0x45)] with sp := 16 }
/-- A machine that has faulted. -/
def faulted : State := { off with status := .faulted .keyRange 0x0200 0xE19E }
/-- A machine at the end of its frame. -/
def frameEnd : State := { off with cyclesLeft := 0, dt := 5, st := 1 }

theorem witness_StepRunsTheDecodedInstruction :
    halted.fetches ∧ halted.fetchWord = 0x1200 ∧ decode 0x1200 = .jp 0x200 ∧
      (∃ t, exec (.jp 0x200) { halted with pc := halted.pc + 2 } = .next t ∧ t.status = .running) :=
  ⟨⟨by decide, by decide, by decide⟩, by decide, by decide, _, rfl, by decide⟩
theorem witness_StepRunsTheDecodedInstruction_fault :
    overflowing.fetches ∧ overflowing.fetchWord = 0x2345 ∧ decode 0x2345 = .call 0x345 ∧
      (∃ t, exec (.call 0x345) { overflowing with pc := overflowing.pc + 2 } = .next t ∧ t.status ≠ .running) :=
  ⟨⟨by decide, by decide, by decide⟩, by decide, by decide, _, rfl, by decide⟩
theorem witness_FetchPastMemoryFaults :
    off.status = .running ∧ off.cyclesLeft ≠ 0 ∧ 0xFFE < (0xFFF : Word).toNat ∧ 0xFFE < (0xFFFF : Word).toNat :=
  by decide
theorem witness_StoppedMachineNeverMoves :
    faulted.status ≠ .running ∧
      (State.resetWith quirksOff customaryGlyphs (List.replicate 3585 0) [] []).status ≠ .running :=
  ⟨by decide, by
    have h : programSpace < (List.replicate 3585 (0 : Byte)).length := by rw [List.length_replicate]; decide
    unfold State.resetWith
    rw [if_pos h]
    nofun⟩
theorem witness_FaultsArePrecise :
    overflowing.status = .running ∧ ∃ t, step overflowing = .next t ∧ t.status ≠ .running :=
  ⟨by decide, _, rfl, by decide⟩
theorem witness_TickDoesWhatItSays :
    frameEnd.status = .running ∧ frameEnd.cyclesLeft = 0 ∧ frameEnd.dt ≠ 0 ∧ frameEnd.st ≠ 0 ∧
      frameEnd.keysAhead = [] ∧
      off.dt = 0 ∧ off.st = 0 ∧ ({ frameEnd with keysAhead := [noKeys] } : State).keysAhead = noKeys :: [] :=
  by decide
theorem witness_TimersRunDownToZero :
    frameEnd.status = .running :=
  by decide
theorem witness_FrameIsItsCyclesThenOneTick :
    halted.status = .running ∧ 1 ≤ halted.cyclesLeft ∧
      ∃ t, Host.Core.run Sys2Proof.core 1 halted = .next t ∧ t.status = .running :=
  ⟨by decide, by decide, _, rfl, by decide⟩
theorem witness_FrameIsItsCyclesThenOneTick_last :
    ({ halted with cyclesLeft := 1 } : State).status = .running ∧
      ∃ t, Host.Core.run Sys2Proof.core 1 { halted with cyclesLeft := 1 } = .next t ∧ t.status = .running :=
  ⟨by decide, _, rfl, by decide⟩
theorem witness_RomIsLoadedVerbatim :
    (List.replicate 3584 (0 : Byte)).length ≤ 3584 :=
  by rw [List.length_replicate]
theorem witness_RomTooLongIsALoadError :
    3584 < (List.replicate 3585 (0 : Byte)).length :=
  by rw [List.length_replicate]; decide
theorem witness_EveryStepKeepsTheInvariant :
    halted.Inv ∧ ∃ t, step halted = .next t :=
  ⟨⟨by decide, by decide, by unfold State.stackEntriesOk; decide, by decide, by decide, trivial⟩, _, rfl⟩
theorem witness_JumpWithOffsetAddsItsRegister :
    (0xFFF : Addr).toNat = (15 : Reg).val * 256 + (0xFF : Byte).toNat ∧ on.params.qJumpV0 = true ∧
      off.params.qJumpV0 = false :=
  by decide
theorem witness_CallPushesTheReturnAddress :
    ({ off with sp := 15 } : State).sp.val < 16 ∧ overflowing.sp.val = 16 :=
  by decide
theorem witness_ReturnPopsThePc :
    overflowing.sp.val ≠ 0 ∧ ({ off with sp := 1 } : State).sp.val ≠ 0 ∧ off.sp.val = 0 :=
  by decide
theorem witness_ReturnUndoesACall :
    ({ off with sp := 15 } : State).sp.val < 16 ∧ (14 : Fin 16).val ≠ ({ off with sp := 15 } : State).sp.val ∧
      ∃ t, exec (.call 0xFFF) { off with sp := 15 } = .next t :=
  ⟨by decide, by decide, _, rfl⟩
theorem witness_LogicClearsTheFlagOnlyUnderItsQuirk :
    on.params.qVfReset = true ∧ off.params.qVfReset = false :=
  by decide
theorem witness_ShiftsSetTheBitShiftedOut :
    (regs on [(1, 3), (15, 0xFF)]).readV 15 =
      (if (regs on [(1, 3), (15, 0xFF)]).params.qShiftCopy = true then (regs on [(1, 3), (15, 0xFF)]).readV 15
        else (regs on [(1, 3), (15, 0xFF)]).readV 1) ∧
      (regs off [(1, 3)]).readV 1 =
      (if (regs off [(1, 3)]).params.qShiftCopy = true then (regs off [(1, 3)]).readV 15
        else (regs off [(1, 3)]).readV 1) :=
  by decide
theorem witness_RandomTakesOneByteOfTheStream :
    ({ off with randAhead := [0xFF] } : State).randAhead = 0xFF :: [] ∧ off.randAhead = [] :=
  by decide
theorem witness_DrawInvertsExactlyTheCoveredPixels :
    (off.setI 0x50).spriteCovers 62 31 2 31 63 ∧ (off.setI 0x50).spriteCovers 62 31 2 0 1 ∧
      (strict.setI 0x50).spriteCovers 62 31 2 31 63 :=
  ⟨⟨0, 1, by decide⟩, ⟨1, 3, by decide⟩, ⟨0, 1, by decide⟩⟩
theorem witness_DrawingTwiceRestoresTheScreen :
    (0 : Reg) ≠ regF ∧ (14 : Reg) ≠ regF ∧ ∃ t, exec (.drw 0 14 1) (off.setI 0x50) = .next t ∧
      t.readV regF = 0 :=
  ⟨by decide, by decide, _, rfl, by decide⟩
theorem witness_KeySkipsTestTheKeyOrFault :
    ((regs (keyed off [15]) [(1, 15)]).readV 1).toNat = (15 : Fin 16).val ∧
      ((regs off [(1, 0)]).readV 1).toNat = (0 : Fin 16).val ∧
      15 < ((regs off [(1, 16)]).readV 1).toNat ∧ 15 < ((regs off [(1, 0xFF)]).readV 1).toNat :=
  by decide
theorem witness_KeyWaitTakesTheLeastKeyOrRewinds :
    (keyed off [3, 15]).key[(3 : Fin 16).val] = true ∧
      (∀ j : Fin 16, j < 3 → (keyed off [3, 15]).key[j.val] = false) ∧
      (keyed off [15]).key[(15 : Fin 16).val] = true ∧
      (∀ j : Fin 16, j < 15 → (keyed off [15]).key[j.val] = false) ∧
      (∀ k : Fin 16, off.key[k.val] = false) :=
  by decide
theorem witness_KeyWaitWithNoKeyIsAnIdleCycle :
    (bytes off [(0x200, 0xF3), (0x201, 0x0A)]).fetches ∧
      decode (bytes off [(0x200, 0xF3), (0x201, 0x0A)]).fetchWord = .ldVxK 3 ∧
      ∀ k : Fin 16, (bytes off [(0x200, 0xF3), (0x201, 0x0A)]).key[k.val] = false :=
  ⟨⟨by decide, by decide, by decide⟩, by decide, by decide⟩
theorem witness_DecimalStoreWritesThreeDigits :
    (∀ k, k < 3 → (0x001 : Addr) ≠ (off.setI 0xFFE).ea k) ∧ off.mem.wf ∧ halted.mem.wf :=
  by decide
theorem witness_BulkStoreWritesTheRegisters :
    on.params.qMemInc = true ∧ off.params.qMemInc = false ∧ off.mem.wf ∧ (15 : Reg) ≤ 15 ∧ (0 : Reg) ≤ 0 ∧
      (∀ k, k ≤ (15 : Reg).val → (0x00F : Addr) ≠ (off.setI 0xFFF).ea k) :=
  by decide
theorem witness_BulkLoadReadsTheRegisters :
    on.params.qMemInc = true ∧ off.params.qMemInc = false ∧ (15 : Reg) ≤ 15 ∧ (14 : Reg) < 15 ∧ (0 : Reg) < 1 :=
  by decide
theorem witness_StoreThenLoadBringsTheRegistersBack :
    off.mem.wf ∧ ∃ t u : State, exec (.store 15) (off.setI 0xFFF) = .next t ∧ u.mem = t.mem ∧
      u.i = (off.setI 0xFFF).i :=
  ⟨by decide, _, { off with mem := (off.storeRegs 0).mem, i := 0xFFF }, rfl, by decide, rfl⟩
/-- F155 in the last word that has a next word, storing its last byte over the first byte of that next word. -/
def storesFirst : State :=
  regs (({ bytes off [(0xFFC, 0xF1), (0xFFD, 0x55)] with pc := 0xFFC } : State).setI 0xFFD) [(1, 0x12)]
/-- F055 storing over the second byte of the next word. -/
def storesSecond : State := (bytes off [(0x200, 0xF0), (0x201, 0x55)]).setI 0x203
/-- F033 storing over both bytes of the next word. -/
def storesDigits : State := (bytes off [(0x200, 0xF0), (0x201, 0x33)]).setI 0x202

theorem witness_StoreIsSeenByTheNextFetch_first :
    storesFirst.fetches ∧ storesFirst.pc.toNat ≤ 0xFFC ∧ storesFirst.mem.wf ∧
      (∃ t, step storesFirst = .next t) ∧
      decode storesFirst.fetchWord = .store 1 ∧ (storesFirst.i.toNat + 1) % 4096 = storesFirst.pc.toNat + 2 ∧
      ∀ k, k < 2 → (storesFirst.i.toNat + k) % 4096 ≠ storesFirst.pc.toNat + 3 :=
  ⟨⟨by decide, by decide, by decide⟩, by decide, by decide, ⟨_, rfl⟩, by decide, by decide, by decide⟩
theorem witness_StoreIsSeenByTheNextFetch_second :
    storesSecond.fetches ∧ storesSecond.pc.toNat ≤ 0xFFC ∧ storesSecond.mem.wf ∧
      (∃ t, step storesSecond = .next t) ∧
      decode storesSecond.fetchWord = .store 0 ∧ (storesSecond.i.toNat + 0) % 4096 = storesSecond.pc.toNat + 3 ∧
      ∀ k, k < 1 → (storesSecond.i.toNat + k) % 4096 ≠ storesSecond.pc.toNat + 2 :=
  ⟨⟨by decide, by decide, by decide⟩, by decide, by decide, ⟨_, rfl⟩, by decide, by decide, by decide⟩
theorem witness_StoreIsSeenByTheNextFetch_digits :
    storesDigits.fetches ∧ storesDigits.pc.toNat ≤ 0xFFC ∧ storesDigits.mem.wf ∧
      (∃ t, step storesDigits = .next t) ∧
      decode storesDigits.fetchWord = .ldB 0 ∧ (storesDigits.i.toNat + 0) % 4096 = storesDigits.pc.toNat + 2 ∧
      (storesDigits.i.toNat + 1) % 4096 = storesDigits.pc.toNat + 3 :=
  ⟨⟨by decide, by decide, by decide⟩, by decide, by decide, ⟨_, rfl⟩, by decide, by decide, by decide⟩
theorem witness_CanonicalMemoriesAreTheirReads :
    ((bytes off [(0x300, 1), (0x200, 2)]).mem).wf ∧ ((bytes off [(0x200, 2), (0x300, 1)]).mem).wf ∧
      ∀ a : Addr, (bytes off [(0x300, 1), (0x200, 2)]).mem.read a = (bytes off [(0x200, 2), (0x300, 1)]).mem.read a :=
  ⟨by decide, by decide, fun _ => rfl⟩
theorem witness_OnlyNamedRegistersAreWritten :
    ∃ t, exec (.ldByte 15 1) off = .next t ∧ t.readV 15 ≠ off.readV 15 :=
  ⟨_, rfl, by decide⟩
theorem witness_IndexWritersKeepItBelow4096 :
    (∃ t, exec (.ldI 0xFFF) off = .next t ∧ t.i ≠ off.i) ∧ (∃ t, exec (.store 0) on = .next t ∧ t.i ≠ on.i) :=
  ⟨⟨_, rfl, by decide⟩, ⟨_, rfl, by decide⟩⟩
theorem witness_StackScreenAndMemoryHaveTheirWriters :
    (∃ t, exec (.call 0xFFF) off = .next t ∧ t.stack ≠ off.stack ∧ t.sp ≠ off.sp) ∧
      (∃ t, exec (.drw 0 0 1) (off.setI 0x50) = .next t ∧ t.fb ≠ off.fb) ∧
      (∃ t, exec (.ldB 0) (off.setI 0x50) = .next t ∧ t.mem ≠ off.mem) :=
  ⟨⟨_, rfl, by decide⟩, ⟨_, rfl, by decide⟩, ⟨_, rfl, by decide⟩⟩
theorem witness_HostSideMovesOnlyAtTheTick :
    (∃ t, exec (.ldDtVx 1) (regs off [(1, 9)]) = .next t ∧ t.dt ≠ off.dt) ∧
      (∃ t, exec (.ldStVx 1) (regs off [(1, 9)]) = .next t ∧ t.st ≠ off.st) :=
  ⟨⟨_, rfl, by decide⟩, ⟨_, rfl, by decide⟩⟩
theorem witness_OnlyRandomConsumesTheStream :
    (∃ t, exec (.rnd 0 0) off = .next t) ∧ (∃ t, exec (.jp 0) off = .next t) ∧ ∀ x kk, Instr.jp 0 ≠ .rnd x kk :=
  ⟨⟨_, rfl⟩, ⟨_, rfl⟩, fun _ _ h => nomatch h⟩
theorem witness_EachFaultHasItsInstructions :
    (∃ t, exec (.call 0) overflowing = .next t ∧ t.status ≠ overflowing.status) ∧
      (∃ t, exec (.ret 0) off = .next t ∧ t.status ≠ off.status) ∧
      (∃ t, exec (.sknp 1 0) (regs off [(1, 16)]) = .next t ∧ t.status ≠ off.status) ∧
      (∃ t, exec (.nop 0x00FD) strict = .next t ∧ t.status ≠ strict.status) :=
  ⟨⟨_, rfl, by decide⟩, ⟨_, rfl, by decide⟩, ⟨_, rfl, by decide⟩, ⟨_, rfl, by decide⟩⟩
theorem witness_OnlyControlFlowMovesPc :
    off.status = .running ∧ ∃ t, exec (.ldVxK 0) off = .next t ∧ t.pc ≠ off.pc :=
  ⟨by decide, _, rfl, by decide⟩
theorem witness_SoundTimerIsNeverObserved :
    (∃ t, exec (.drw 0 0 5) off = .next t) ∧ ∀ x, Instr.drw 0 0 5 ≠ .ldStVx x :=
  ⟨⟨_, rfl⟩, fun _ h => nomatch h⟩
theorem witness_FinalStatesStayFinal :
    halted.isFinal ∧ ∃ t, step halted = .next t :=
  ⟨⟨by decide, by decide, by decide⟩, _, rfl⟩
theorem witness_FinalStatesStayFinal_at_last_fetch :
    ({ bytes off [(0xFFE, 0x1F), (0xFFF, 0xFE)] with pc := 0xFFE } : State).isFinal :=
  ⟨by decide, by decide, by decide⟩

end Sys2Proof.Tests
end

section
/-! SUPPORT. What the execute phase of an instruction can do, said once as a relation of the instruction, the
state before and the state after; then what follows for each piece of state (10_state.md). -/

namespace Sys2Proof.Machine

/-! ## The kinds of effect -/

/-- The instructions whose execution may leave PC elsewhere than at the address after them (R12). -/
def MovesPc (i : Instr) : Prop :=
  (∃ nnn, i = .jp nnn) ∨ (∃ nnn, i = .call nnn) ∨ (∃ nnn, i = .jpV0 nnn) ∨
  (∃ g, i = .ret g) ∨ (∃ x kk, i = .seByte x kk) ∨ (∃ x kk, i = .sneByte x kk) ∨
  (∃ x y g, i = .seReg x y g) ∨ (∃ x y g, i = .sneReg x y g) ∨ (∃ x g, i = .skp x g) ∨
  (∃ x g, i = .sknp x g) ∨ (∃ x, i = .ldVxK x)

/-- Where a jump, a skip or the key wait can set PC: to an address a jump can form, to the instruction after
it, to the one after that, or back to itself (R82, R88, R89, R133). -/
def State.reaches (s : State) (a : Word) : Prop :=
  a.toNat ≤ 0x10FE ∨ a = s.pc ∨ a = s.pc + instrBytes ∨ a = s.pc - instrBytes

/-- What the execute phase of i checks before it raises the fault (R151). A fetch fault is not its own. -/
def State.faultsIn (s : State) (i : Instr) : FaultCause → Prop
  | .fetchRange => False
  | .stackOverflow => s.sp.val = 16 ∧ ∃ nnn, i = .call nnn
  | .stackUnderflow => s.sp.val = 0 ∧ ∃ g, i = .ret g
  | .keyRange => ∃ x g, (i = .skp x g ∨ i = .sknp x g) ∧ 15 < (s.readV x).toNat
  | .illegalInstruction => s.params.strictDecode = true ∧ ∃ w, i = .nop w

/-- The new value of I after a post-increment: as before, or wrapped to 12 bits under `Q_MEM_INC` (R146). -/
def State.bumpsTo (s : State) (j : Word) : Prop := j ≠ s.i → s.params.qMemInc = true ∧ j.toNat < 4096

/-- `Effect s i t`: executing i in s can lead to t. One constructor for each set of fields an instruction may
change, with what is known of their new values. -/
inductive Effect (s : State) : Instr → State → Prop
  /-- No change: an unmapped word (R80). -/
  | nothing (w : Word) : Effect s (.nop w) s
  /-- A fault of the execute phase (R152). -/
  | fault {i : Instr} (c : FaultCause) (hc : s.faultsIn i c) : Effect s i (s.faultIn c i)
  /-- Registers alone: the loads, arithmetic, and the key wait that found a key. -/
  | registers {i : Instr} (v : Vector Byte 16)
      (hv : ∀ r, ({ s with v := v } : State).readV r ≠ s.readV r → mayWriteV i r) : Effect s i { s with v := v }
  /-- PC alone: the jumps, the skips, and the key wait that found no key. -/
  | pc {i : Instr} (a : Word) (hi : MovesPc i) (ha : s.reaches a) : Effect s i { s with pc := a }
  /-- A call with a stack entry free (R83). -/
  | call (nnn : Addr) (stack : Vector Word 16) (sp : Fin 17) (hsp : sp.val = s.sp.val + 1)
      (hstack : ∀ k : Fin 16, stack[k.val] = if k.val = s.sp.val then s.pc else s.stack[k.val]) :
      Effect s (.call nnn) { s with stack := stack, sp := sp, pc := addressWord nnn }
  /-- A return with an address held (R81). -/
  | ret (g : Byte) (sp : Fin 17) (a : Word) (hsp : sp.val + 1 = s.sp.val)
      (ha : ∀ k : Fin 16, k.val = sp.val → a = s.stack[k.val]) :
      Effect s (.ret g) { s with sp := sp, pc := a }
  /-- 00E0 (R120). -/
  | clear (g : Byte) : Effect s (.cls g) { s with fb := blankScreen }
  /-- Dxyn (R121). -/
  | draw (x y : Reg) (n : Fin 16) (fb : Framebuffer) (b : Byte) :
      Effect s (.drw x y n) ((s.setFb fb).writeV regF b)
  /-- Cxkk (R111). -/
  | random (x : Reg) (kk b : Byte) : Effect s (.rnd x kk) (s.advanceRand.writeV x b)
  /-- Annn, Fx1E, Fx29 (R140 to R142). -/
  | index {i : Instr} (a : Word) (hi : (∃ nnn, i = .ldI nnn) ∨ (∃ x, i = .addI x) ∨ ∃ x, i = .ldF x)
      (ha : a.toNat < 4096) : Effect s i { s with i := a }
  /-- Fx15 (R134). -/
  | delay (x : Reg) (b : Byte) : Effect s (.ldDtVx x) { s with dt := b }
  /-- Fx18 (R135). -/
  | sound (x : Reg) (b : Byte) : Effect s (.ldStVx x) { s with st := b }
  /-- Fx33 (R143). -/
  | digits (x : Reg) (m : Memory) (hm : s.mem.wf → m.wf) : Effect s (.ldB x) { s with mem := m }
  /-- Fx55 (R144). -/
  | store (x : Reg) (m : Memory) (j : Word) (hm : s.mem.wf → m.wf) (hj : s.bumpsTo j) :
      Effect s (.store x) { s with mem := m, i := j }
  /-- Fx65 (R145). -/
  | load (x : Reg) (v : Vector Byte 16) (j : Word)
      (hv : ∀ r, ({ s with v := v } : State).readV r ≠ s.readV r → r ≤ x) (hj : s.bumpsTo j) :
      Effect s (.load x) { s with v := v, i := j }

variable {s t : State} {i : Instr}

/-! ## The shared operations as effects -/

theorem eq_of_readV_writeV_ne {r x : Reg} {b : Byte} (h : (s.writeV x b).readV r ≠ s.readV r) : r = x :=
  not_imp_comm.1 (readV_writeV_other s b) h

theorem Effect.writeV {x : Reg} (b : Byte) (hx : mayWriteV i x) : Effect s i (s.writeV x b) :=
  .registers _ fun _ h => eq_of_readV_writeV_ne h ▸ hx

theorem Effect.writeResultThenFlag {x : Reg} (b f : Byte) (hx : mayWriteV i x) (hf : mayWriteV i regF) :
    Effect s i (s.writeResultThenFlag x b f) := by
  refine .registers _ fun r h => ?_
  replace h : (s.writeResultThenFlag x b f).readV r ≠ s.readV r := h
  by_cases hr : r = regF
  · exact hr ▸ hf
  · rw [readV_writeResultThenFlag, if_neg hr, ← readV_writeV] at h
    exact eq_of_readV_writeV_ne h ▸ hx

theorem Effect.writeLogic {x : Reg} (b : Byte) (hx : mayWriteV i x) (hf : mayWriteV i regF) :
    Effect s i (s.writeLogic x b) := by
  unfold State.writeLogic
  split
  · exact .writeResultThenFlag b 0 hx hf
  · exact .writeV b hx

theorem Effect.skipIf (c : Bool) (hi : MovesPc i) : Effect s i (s.skipIf c) := by
  cases c with
  | false => exact .pc s.pc hi (.inr (.inl rfl))
  | true => exact .pc (s.pc + instrBytes) hi (.inr (.inr (.inl rfl)))

theorem addressWord_toNat (nnn : Addr) : (addressWord nnn).toNat = nnn.toNat := by
  have := nnn.isLt
  simp only [addressWord, BitVec.toNat_ofNat]
  omega

theorem addressWord_lt (nnn : Addr) : (addressWord nnn).toNat < 4096 := by
  rw [addressWord_toNat]
  exact nnn.isLt

theorem glyphAddress_lt (b : Byte) : (glyphAddress b).toNat < 4096 := by
  have := b.isLt
  rw [glyphAddress, fontBase, BitVec.toNat_ofNat]
  exact Nat.lt_of_le_of_lt (Nat.mod_le _ _) (by omega)

theorem addIndex_lt (j : Word) (n : Nat) : (addIndex j n).toNat < 4096 := by
  rw [addIndex_toNat]
  omega

/-- The largest target of Bnnn is 0xFF + 0xFFF (R88). -/
theorem offsetTarget_le (s : State) (nnn : Addr) : (s.offsetTarget nnn).toNat ≤ 0x10FE := by
  have hn := nnn.isLt
  have h0 := (s.readV 0).isLt
  have hx := (s.readV (offsetReg nnn)).isLt
  unfold State.offsetTarget offsetByte
  split <;> rw [BitVec.toNat_ofNat] <;> omega

theorem bumpsTo_bumpI (n : Nat) : s.bumpsTo (s.bumpI n).i := by
  intro h
  rw [bumpI_i] at h ⊢
  split at h
  · rename_i hq
    rw [if_pos hq]
    exact ⟨hq, addIndex_lt _ _⟩
  · exact absurd rfl h

theorem bumpI_eq (s : State) (n : Nat) : s.bumpI n = { s with i := (s.bumpI n).i } := by
  unfold State.bumpI
  split <;> rfl

/-! ## The effect of each instruction that branches -/

theorem effect_ret {g : Byte} (h : execRet g s = .next t) : Effect s (.ret g) t := by
  unfold execRet at h
  split at h
  · rename_i hp
    cases h
    refine .fault .stackUnderflow ⟨?_, g, rfl⟩
    by_contra hne
    obtain ⟨a, u, hu⟩ := pop?_isSome s hne
    rw [hu] at hp
    cases hp
  · rename_i a u hp
    cases h
    obtain ⟨-, hu, hsp, ha⟩ := pop?_eq_some s hp
    rw [hu]
    exact .ret g u.sp a hsp ha

theorem effect_call {nnn : Addr} (h : execCall nnn s = .next t) : Effect s (.call nnn) t := by
  unfold execCall at h
  split at h
  · rename_i hp
    cases h
    refine .fault .stackOverflow ⟨?_, nnn, rfl⟩
    by_contra hne
    obtain ⟨u, hu⟩ := push?_isSome s (a := s.pc) (by have := s.sp.isLt; omega)
    rw [hu] at hp
    cases hp
  · rename_i u hp
    cases h
    obtain ⟨-, hu, hsp, hstack⟩ := push?_eq_some s hp
    rw [hu]
    exact .call nnn u.stack u.sp hsp hstack

theorem keyAt?_eq_none {key : Keypad} {k : Byte} (h : keyAt? key k = none) : 15 < k.toNat := by
  by_contra hk
  rw [keyAt?_some (by omega)] at h
  cases h

theorem effect_skp {x : Reg} {g : Nibble} (h : execSkp x g s = .next t) : Effect s (.skp x g) t := by
  unfold execSkp at h
  split at h
  · rename_i hk
    cases h
    exact .fault .keyRange ⟨x, g, .inl rfl, keyAt?_eq_none hk⟩
  · cases h
    exact .skipIf _ (by simp [MovesPc])

theorem effect_sknp {x : Reg} {g : Nibble} (h : execSknp x g s = .next t) : Effect s (.sknp x g) t := by
  unfold execSknp at h
  split at h
  · rename_i hk
    cases h
    exact .fault .keyRange ⟨x, g, .inr rfl, keyAt?_eq_none hk⟩
  · cases h
    exact .skipIf _ (by simp [MovesPc])

theorem effect_ldVxK {x : Reg} (h : execLdVxK x s = .next t) : Effect s (.ldVxK x) t := by
  unfold execLdVxK at h
  split at h
  · cases h
    exact .pc _ (by simp [MovesPc]) (.inr (.inr (.inr rfl)))
  · cases h
    exact .writeV _ rfl

theorem effect_nop {w : Word} (h : execNop w s = .next t) : Effect s (.nop w) t := by
  unfold execNop at h
  split at h
  · rename_i hs
    cases h
    exact .fault .illegalInstruction ⟨hs, w, rfl⟩
  · cases h
    exact .nothing w

theorem effect_store (s : State) (x : Reg) : Effect s (.store x) ((s.storeRegs (x.val + 1)).bumpI (x.val + 1)) := by
  rw [bumpI_eq, storeRegs_eq]
  exact .store x _ _ (fun hm => storeRegs_wf hm _) (bumpsTo_bumpI _)

theorem effect_load (s : State) (x : Reg) : Effect s (.load x) ((s.loadRegs (x.val + 1)).bumpI (x.val + 1)) := by
  rw [bumpI_eq, loadRegs_eq]
  refine .load x _ _ (fun r hr => ?_) (bumpsTo_bumpI _)
  replace hr : (s.loadRegs (x.val + 1)).readV r ≠ s.readV r := hr
  rw [loadRegs_readV s (by omega)] at hr
  split at hr
  · exact Nat.le_of_lt_succ ‹_›
  · exact absurd rfl hr

/-- Everything the execute phase can do. -/
theorem exec_effect (h : exec i s = .next t) : Effect s i t := by
  cases i with
  | ret g => exact effect_ret h
  | call nnn => exact effect_call h
  | skp x g => exact effect_skp h
  | sknp x g => exact effect_sknp h
  | ldVxK x => exact effect_ldVxK h
  | nop w => exact effect_nop h
  | cls g => cases h; exact .clear g
  | jp nnn => cases h; exact .pc _ (by simp [MovesPc]) (.inl (by have := addressWord_lt nnn; omega))
  | jpV0 nnn => cases h; exact .pc _ (by simp [MovesPc]) (.inl (offsetTarget_le s nnn))
  | seByte x kk | sneByte x kk | seReg x y g | sneReg x y g => cases h; exact .skipIf _ (by simp [MovesPc])
  | ldByte x kk | addByte x kk | ldReg x y | ldVxDt x => cases h; exact .writeV _ rfl
  | orReg x y | andReg x y | xorReg x y => cases h; exact .writeLogic _ (.inl rfl) (.inr rfl)
  | addReg x y | subReg x y | shrReg x y | subnReg x y | shlReg x y =>
    cases h; exact .writeResultThenFlag _ _ (.inl rfl) (.inr rfl)
  | ldI nnn => cases h; exact .index _ (.inl ⟨nnn, rfl⟩) (addressWord_lt nnn)
  | addI x => cases h; exact .index _ (.inr (.inl ⟨x, rfl⟩)) (addIndex_lt _ _)
  | ldF x => cases h; exact .index _ (.inr (.inr ⟨x, rfl⟩)) (glyphAddress_lt _)
  | rnd x kk => cases h; exact .random x kk _
  | drw x y n => cases h; exact .draw x y n _ _
  | ldDtVx x => cases h; exact .delay x _
  | ldStVx x => cases h; exact .sound x _
  | ldB x => cases h; exact .digits x _ fun hm => writeByte_wf (writeByte_wf (writeByte_wf hm _ _) _ _) _ _
  | store x => cases h; exact effect_store s x
  | load x => cases h; exact effect_load s x

end Sys2Proof.Machine
end

section
/-! SUPPORT. What each kind of effect does to each piece of state, and the rules of the whole machine that
follow (10_state.md). -/

namespace Sys2Proof.Machine

variable {s t : State} {i : Instr}

/-! ## The writers of each piece of state -/

theorem Effect.mayWriteV {r : Reg} (he : Effect s i t) (h : t.readV r ≠ s.readV r) : mayWriteV i r := by
  cases he with
  | registers v hv => exact hv r h
  | load x v j hv hj => exact hv r h
  | draw x y n fb b => exact eq_of_readV_writeV_ne (s := s.setFb fb) h
  | random x kk b => exact eq_of_readV_writeV_ne (s := s.advanceRand) h
  | _ => exact absurd rfl h

/-- Settles O47: a register that changed is one its instruction may write, read off the kinds of effect. -/
theorem onlyNamedRegistersAreWritten : Obligations.OnlyNamedRegistersAreWritten :=
  fun _ _ _ _ h hr => (exec_effect h).mayWriteV hr

theorem Effect.writes_i (he : Effect s i t) (h : t.i ≠ s.i) : t.i.toNat < 4096 ∧
    ((∃ nnn, i = .ldI nnn) ∨ (∃ x, i = .addI x) ∨ (∃ x, i = .ldF x) ∨
      (s.params.qMemInc = true ∧ ((∃ x, i = .store x) ∨ ∃ x, i = .load x))) := by
  cases he with
  | index a hi ha => exact ⟨ha, hi.imp_right (Or.imp_right .inl)⟩
  | store x m j hm hj =>
    obtain ⟨hq, hlt⟩ := hj h
    exact ⟨hlt, .inr (.inr (.inr ⟨hq, .inl ⟨x, rfl⟩⟩))⟩
  | load x v j hv hj =>
    obtain ⟨hq, hlt⟩ := hj h
    exact ⟨hlt, .inr (.inr (.inr ⟨hq, .inr ⟨x, rfl⟩⟩))⟩
  | _ => exact absurd rfl h

/-- Settles O48, from the writers of I; the tick is not one. -/
theorem indexWritersKeepItBelow4096 : Obligations.IndexWritersKeepItBelow4096 :=
  ⟨fun _ _ _ h hi => (exec_effect h).writes_i hi, tick_i⟩

theorem Effect.writes_stack (he : Effect s i t) (h : t.stack ≠ s.stack) : ∃ nnn, i = .call nnn := by
  cases he with
  | call nnn => exact ⟨nnn, rfl⟩
  | _ => exact absurd rfl h

theorem Effect.writes_sp (he : Effect s i t) (h : t.sp ≠ s.sp) : (∃ nnn, i = .call nnn) ∨ ∃ g, i = .ret g := by
  cases he with
  | call nnn => exact .inl ⟨nnn, rfl⟩
  | ret g => exact .inr ⟨g, rfl⟩
  | _ => exact absurd rfl h

theorem Effect.writes_fb (he : Effect s i t) (h : t.fb ≠ s.fb) :
    (∃ g, i = .cls g) ∨ ∃ x y n, i = .drw x y n := by
  cases he with
  | clear g => exact .inl ⟨g, rfl⟩
  | draw x y n => exact .inr ⟨x, y, n, rfl⟩
  | _ => exact absurd rfl h

theorem Effect.writes_mem (he : Effect s i t) (h : t.mem ≠ s.mem) : (∃ x, i = .ldB x) ∨ ∃ x, i = .store x := by
  cases he with
  | digits x => exact .inl ⟨x, rfl⟩
  | store x => exact .inr ⟨x, rfl⟩
  | _ => exact absurd rfl h

/-- Settles O49, from the writers of the stack, SP, the framebuffer and memory; the tick is none of them. -/
theorem stackScreenAndMemoryHaveTheirWriters : Obligations.StackScreenAndMemoryHaveTheirWriters := by
  refine ⟨fun i s t h => ?_, fun s => ⟨tick_stack s, tick_sp s, tick_fb s, tick_mem s⟩⟩
  have he := exec_effect h
  exact ⟨he.writes_stack, he.writes_sp, he.writes_fb, he.writes_mem⟩

theorem Effect.writes_dt (he : Effect s i t) (h : t.dt ≠ s.dt) : ∃ x, i = .ldDtVx x := by
  cases he with
  | delay x => exact ⟨x, rfl⟩
  | _ => exact absurd rfl h

theorem Effect.writes_st (he : Effect s i t) (h : t.st ≠ s.st) : ∃ x, i = .ldStVx x := by
  cases he with
  | sound x => exact ⟨x, rfl⟩
  | _ => exact absurd rfl h

/-- What no instruction changes: the fields of the host's side, the parameters and the latch. -/
theorem Effect.hostSide (he : Effect s i t) :
    t.key = s.key ∧ t.tone = s.tone ∧ t.params = s.params ∧ t.opcode = s.opcode ∧
    t.cyclesLeft = s.cyclesLeft ∧ t.tickCount = s.tickCount ∧ t.keysAhead = s.keysAhead ∧
    t.display = s.display := by
  cases he <;> exact ⟨rfl, rfl, rfl, rfl, rfl, rfl, rfl, rfl⟩

/-- Settles O50, from the writers of the timers and the frame every instruction has. -/
theorem hostSideMovesOnlyAtTheTick : Obligations.HostSideMovesOnlyAtTheTick := by
  intro i s t h
  have he := exec_effect h
  exact ⟨he.writes_dt, he.writes_st, he.hostSide⟩

theorem Effect.keeps_stream (he : Effect s i t) (hi : ∀ x kk, i ≠ .rnd x kk) :
    t.randPos = s.randPos ∧ t.randAhead = s.randAhead := by
  cases he with
  | random x kk => exact absurd rfl (hi x kk)
  | _ => exact ⟨rfl, rfl⟩

/-- Settles O51: Cxkk consumes one byte by its definition, and no other kind of effect moves the stream. -/
theorem onlyRandomConsumesTheStream : Obligations.OnlyRandomConsumesTheStream := by
  refine ⟨fun i s t h => ⟨?_, (exec_effect h).keeps_stream⟩, fun s => ⟨tick_randPos s, tick_randAhead s⟩⟩
  rintro ⟨x, kk, rfl⟩
  cases h
  exact ⟨rfl, rfl⟩

theorem Effect.moves_pc (he : Effect s i t) (h : t.pc ≠ s.pc) : t.status ≠ .running ∨ MovesPc i := by
  cases he with
  | fault c hc => exact .inl (by simp)
  | pc a hi ha => exact .inr hi
  | call nnn => exact .inr (by simp [MovesPc])
  | ret g => exact .inr (by simp [MovesPc])
  | _ => exact absurd rfl h

/-- Settles O53, from the instructions that move PC; the rest is a fault. -/
theorem onlyControlFlowMovesPc : Obligations.OnlyControlFlowMovesPc :=
  fun _ _ _ _ h hpc => (exec_effect h).moves_pc hpc

end Sys2Proof.Machine
end

section
/-! SUPPORT. The sound side of the state, ST, TONE and the presented picture, takes no part in what an
instruction does (10_state.md R17, R22). -/

namespace Sys2Proof.Machine

/-- The state with another sound timer, tone and presented picture. -/
def State.withSound (s : State) (st : Byte) (tone : Bool) (d : Option Framebuffer) : State :=
  { s with st := st, tone := tone, display := d }

variable (s : State) (st : Byte) (tone : Bool) (d : Option Framebuffer)

/-! ## The shared operations -/

theorem skipIf_withSound (c : Bool) :
    (s.withSound st tone d).skipIf c = (s.skipIf c).withSound st tone d := by
  cases c <;> rfl

theorem writeLogic_withSound (x : Reg) (b : Byte) :
    (s.withSound st tone d).writeLogic x b = (s.writeLogic x b).withSound st tone d := by
  unfold State.writeLogic
  rw [apply_ite (State.withSound · st tone d)]
  rfl

theorem bumpI_withSound (n : Nat) :
    (s.withSound st tone d).bumpI n = (s.bumpI n).withSound st tone d := by
  unfold State.bumpI
  rw [apply_ite (State.withSound · st tone d)]
  rfl

theorem storeRegs_withSound (n : Nat) :
    (s.withSound st tone d).storeRegs n = (s.storeRegs n).withSound st tone d := by
  induction n with
  | zero => rfl
  | succ n ih => rw [storeRegs_succ, storeRegs_succ, ih]; rfl

theorem loadRegs_withSound (n : Nat) :
    (s.withSound st tone d).loadRegs n = (s.loadRegs n).withSound st tone d := by
  induction n with
  | zero => rfl
  | succ n ih => rw [loadRegs_succ, loadRegs_succ, ih]; rfl

theorem push?_withSound (a : Word) :
    (s.withSound st tone d).push? a = (s.push? a).map (·.withSound st tone d) := by
  unfold State.push?
  rw [apply_dite (Option.map (State.withSound · st tone d))]
  rfl

theorem keyAt?_withSound (x : Reg) :
    keyAt? (s.withSound st tone d).key ((s.withSound st tone d).readV x) = keyAt? s.key (s.readV x) := rfl

theorem pop?_withSound :
    (s.withSound st tone d).pop? = s.pop?.map fun p => (p.1, p.2.withSound st tone d) := by
  unfold State.pop?
  rw [apply_dite (Option.map fun p : Word × State => (p.1, p.2.withSound st tone d))]
  rfl

/-! ## The instructions -/

variable {s st tone d} {t : State}

theorem execRet_withSound {g : Byte} (h : execRet g s = .next t) :
    execRet g (s.withSound st tone d) = .next (t.withSound st tone d) := by
  unfold execRet at h ⊢
  rw [pop?_withSound]
  cases hp : s.pop? with
  | none => rw [hp] at h; cases h; rfl
  | some p => rw [hp] at h; cases h; rfl

theorem execCall_withSound {nnn : Addr} (h : execCall nnn s = .next t) :
    execCall nnn (s.withSound st tone d) = .next (t.withSound st tone d) := by
  unfold execCall at h ⊢
  rw [show (s.withSound st tone d).pc = s.pc from rfl, push?_withSound]
  cases hp : s.push? s.pc with
  | none => rw [hp] at h; cases h; rfl
  | some u => rw [hp] at h; cases h; rfl

theorem execSkp_withSound {x : Reg} {g : Nibble} (h : execSkp x g s = .next t) :
    execSkp x g (s.withSound st tone d) = .next (t.withSound st tone d) := by
  unfold execSkp at h ⊢
  rw [keyAt?_withSound]
  cases hk : keyAt? s.key (s.readV x) with
  | none => rw [hk] at h; cases h; rfl
  | some down => rw [hk] at h; cases h; exact congrArg _ (skipIf_withSound s st tone d _)

theorem execSknp_withSound {x : Reg} {g : Nibble} (h : execSknp x g s = .next t) :
    execSknp x g (s.withSound st tone d) = .next (t.withSound st tone d) := by
  unfold execSknp at h ⊢
  rw [keyAt?_withSound]
  cases hk : keyAt? s.key (s.readV x) with
  | none => rw [hk] at h; cases h; rfl
  | some down => rw [hk] at h; cases h; exact congrArg _ (skipIf_withSound s st tone d _)

theorem execLdVxK_withSound {x : Reg} (h : execLdVxK x s = .next t) :
    execLdVxK x (s.withSound st tone d) = .next (t.withSound st tone d) := by
  unfold execLdVxK at h ⊢
  rw [show (s.withSound st tone d).key = s.key from rfl]
  cases hk : firstPressed s.key with
  | none => rw [hk] at h; cases h; rfl
  | some k => rw [hk] at h; cases h; rfl

theorem execNop_withSound {w : Word} (h : execNop w s = .next t) :
    execNop w (s.withSound st tone d) = .next (t.withSound st tone d) := by
  unfold execNop at h ⊢
  rw [show (s.withSound st tone d).params = s.params from rfl]
  split at h
  · rename_i hs
    cases h
    exact if_pos hs
  · rename_i hs
    cases h
    exact if_neg hs

/-- Every instruction but the writer of ST commutes with a change of the sound side. -/
theorem exec_withSound {i : Instr} (h : exec i s = .next t) (hi : ∀ x, i ≠ .ldStVx x) :
    exec i (s.withSound st tone d) = .next (t.withSound st tone d) := by
  cases i with
  | ldStVx x => exact absurd rfl (hi x)
  | ret g => exact execRet_withSound h
  | call nnn => exact execCall_withSound h
  | skp x g => exact execSkp_withSound h
  | sknp x g => exact execSknp_withSound h
  | ldVxK x => exact execLdVxK_withSound h
  | nop w => exact execNop_withSound h
  | seByte x kk | sneByte x kk | seReg x y g | sneReg x y g =>
    cases h; exact congrArg _ (skipIf_withSound s st tone d _)
  | orReg x y | andReg x y | xorReg x y => cases h; exact congrArg _ (writeLogic_withSound s st tone d x _)
  | store x =>
    cases h
    rw [← bumpI_withSound, ← storeRegs_withSound]
    rfl
  | load x =>
    cases h
    rw [← bumpI_withSound, ← loadRegs_withSound]
    rfl
  | cls | jp | ldByte | addByte | ldReg | addReg | subReg | shrReg | subnReg | shlReg | ldI | jpV0 | rnd
  | drw | ldVxDt | ldDtVx | addI | ldF | ldB => cases h; rfl

/-- Settles O54: no instruction but Fx18 depends on the sound side, nor changes it. -/
theorem soundTimerIsNeverObserved : Obligations.SoundTimerIsNeverObserved :=
  fun _ _ _ _ _ _ h hi => exec_withSound h hi

end Sys2Proof.Machine
end

section
/-! SUPPORT. Encoding what was decoded gives the word back, so that a fault records the opcode that was
fetched (30_encoding.md R51, R52, R58; 10_state.md R21). -/

namespace Sys2Proof.Machine

/-! ## A word is its fields -/

section
variable {w : Word} {a c : Nat}

theorem ofAddress_fields (ha : bits w 15 12 = a) : ofAddress a (fieldNNN w).toNat = w := by
  subst ha
  have := w.isLt
  refine BitVec.eq_of_toNat_eq ?_
  simp only [ofAddress, fieldNNN, bits, BitVec.toNat_ofNat]
  omega

theorem ofNibblesByte_fields (ha : bits w 15 12 = a) (hc : bits w 7 0 = c) :
    ofNibblesByte a (fieldX w).val c = w := by
  subst ha hc
  have := w.isLt
  refine BitVec.eq_of_toNat_eq ?_
  simp only [ofNibblesByte, fieldX, regOf, bits, BitVec.toNat_ofNat, Fin.val_ofNat]
  omega

theorem ofNibbles_fields (ha : bits w 15 12 = a) (hc : bits w 3 0 = c) :
    ofNibbles a (fieldX w).val (fieldY w).val c = w := by
  subst ha hc
  have := w.isLt
  refine BitVec.eq_of_toNat_eq ?_
  simp only [ofNibbles, fieldX, fieldY, regOf, bits, BitVec.toNat_ofNat, Fin.val_ofNat]
  omega

theorem ofIgnored_fields (ha : bits w 15 12 = 0) (hc : bits w 3 0 = c) :
    ofIgnored (ignored11to4 w).toNat c = w := by
  subst hc
  have := w.isLt
  refine BitVec.eq_of_toNat_eq ?_
  simp only [ofIgnored, ignored11to4, bits, BitVec.toNat_ofNat] at ha ⊢
  omega

end

theorem fieldKK_toNat (w : Word) : bits w 7 0 = (fieldKK w).toNat := by
  simp only [fieldKK, bits, BitVec.toNat_ofNat]
  omega

theorem ignored3to0_toNat (w : Word) : bits w 3 0 = (ignored3to0 w).toNat := by
  simp only [ignored3to0, bits, BitVec.toNat_ofNat]
  omega

theorem ignored7to4_toNat (w : Word) : (ignored7to4 w).toNat = (fieldY w).val := by
  simp only [ignored7to4, fieldY, regOf, bits, BitVec.toNat_ofNat, Fin.val_ofNat]

theorem fieldN_val (w : Word) : bits w 3 0 = (fieldN w).val := by
  simp only [fieldN, bits, Fin.val_ofNat]
  omega

/-! ## The families -/

theorem encode_decodeFamily0 {w : Word} (h : bits w 15 12 = 0x0) : encode (decodeFamily0 w) = w := by
  unfold decodeFamily0
  split
  · exact ofIgnored_fields h ‹_›
  · exact ofIgnored_fields h ‹_›
  · rfl

theorem encode_decodeFamily8 {w : Word} (h : bits w 15 12 = 0x8) : encode (decodeFamily8 w) = w := by
  unfold decodeFamily8
  split
  case h_10 => rfl
  all_goals exact ofNibbles_fields h ‹_›

theorem encode_decodeFamilyE {w : Word} (h : bits w 15 12 = 0xE) : encode (decodeFamilyE w) = w := by
  unfold decodeFamilyE
  split
  case h_3 => rfl
  all_goals
    rw [encode, ignored7to4_toNat]
    exact ofNibbles_fields h ‹_›

theorem encode_decodeFamilyF {w : Word} (h : bits w 15 12 = 0xF) : encode (decodeFamilyF w) = w := by
  unfold decodeFamilyF
  split
  case h_10 => rfl
  all_goals exact ofNibblesByte_fields h ‹_›

/-- No bit of a word is lost in decoding (log 14). -/
theorem encode_decode (w : Word) : encode (decode w) = w := by
  unfold decode
  split
  case h_1 h => exact encode_decodeFamily0 h
  case h_2 h | h_3 h | h_11 h | h_12 h => exact ofAddress_fields h
  case h_4 h | h_5 h | h_7 h | h_8 h | h_13 h => exact ofNibblesByte_fields h (fieldKK_toNat w)
  case h_6 h | h_10 h => exact ofNibbles_fields h (ignored3to0_toNat w)
  case h_9 h => exact encode_decodeFamily8 h
  case h_14 h => exact ofNibbles_fields h (fieldN_val w)
  case h_15 h => exact encode_decodeFamilyE h
  case h_16 =>
    refine encode_decodeFamilyF ?_
    have hlt : bits w 15 12 < 16 := Nat.mod_lt _ (by decide)
    simp only [imp_false] at *
    omega

theorem nop_of_decode {w o : Word} (h : decode w = .nop o) : o = w := by
  have := encode_decode w
  rwa [h] at this

end Sys2Proof.Machine
end

section
/-! SUPPORT. The invariant of a run holds after every reset and is kept by every step (10_state.md R26). -/

namespace Sys2Proof.Machine

variable {s t : State} {i : Instr}

/-! ## What the effects keep, from the state with PC advanced -/

theorem Effect.mem_wf (he : Effect s i t) (hm : s.mem.wf) : t.mem.wf := by
  cases he with
  | digits x m h => exact h hm
  | store x m j h => exact h hm
  | _ => exact hm

theorem Effect.i_lt (he : Effect s i t) (hi : s.i.toNat < 4096) : t.i.toNat < 4096 := by
  by_cases h : t.i = s.i
  · rwa [h]
  · exact (he.writes_i h).1

/-- A call pushes the advanced PC, which is a return address of the invariant (R83). -/
theorem Effect.stackEntriesOk (he : Effect s i t) (hs : s.stackEntriesOk)
    (hlo : 2 ≤ s.pc.toNat) (hhi : s.pc.toNat ≤ 0x1000) : t.stackEntriesOk := by
  cases he with
  | call nnn stack sp hsp hstack =>
    intro k hk
    replace hk : k.val < sp.val := hk
    show 2 ≤ stack[k.val].toNat ∧ stack[k.val].toNat ≤ 0x1000
    rw [hstack k]
    split
    · exact ⟨hlo, hhi⟩
    · exact hs k (by omega)
  | ret g sp a hsp =>
    intro k hk
    replace hk : k.val < sp.val := hk
    exact hs k (by omega)
  | _ => exact hs

theorem reaches_le {a : Word} (ha : s.reaches a) (hlo : 2 ≤ s.pc.toNat) (hhi : s.pc.toNat ≤ 0x1000) :
    a.toNat ≤ 0x10FE := by
  unfold State.reaches instrBytes at ha
  bv_omega

/-- Jumps stay in the range of R88, and a return goes to a return address the stack holds (R81). -/
theorem Effect.pc_le (he : Effect s i t) (hs : s.stackEntriesOk)
    (hlo : 2 ≤ s.pc.toNat) (hhi : s.pc.toNat ≤ 0x1000) : t.pc.toNat ≤ 0x10FE := by
  cases he with
  | pc a hi ha => exact reaches_le ha hlo hhi
  | fault c hc => exact reaches_le (.inr (.inr (.inr rfl))) hlo hhi
  | call nnn =>
    have := addressWord_lt nnn
    show (addressWord nnn).toNat ≤ 0x10FE
    omega
  | ret g sp a hsp ha =>
    have hk : sp.val < s.sp.val := by omega
    have := hs ⟨sp.val, by omega⟩ hk
    show a.toNat ≤ 0x10FE
    rw [ha ⟨sp.val, by omega⟩ rfl]
    omega
  | _ =>
    show s.pc.toNat ≤ 0x10FE
    omega

theorem Effect.running_or_fault (he : Effect s i t) (hr : s.status = .running) :
    t.status = .running ∨ ∃ c, s.faultsIn i c ∧ t = s.faultIn c i := by
  cases he with
  | fault c hc => exact .inr ⟨c, hc, rfl⟩
  | _ => exact .inl hr

/-! ## The fault record -/

theorem faultRecordOk_of_running (h : s.status = .running) : s.faultRecordOk := by
  unfold State.faultRecordOk
  rw [h]
  trivial

/-- The state in which the instruction at PC has faulted. -/
theorem faultIn_advancePc (s : State) (c : FaultCause) :
    s.advancePc.faultIn c (decode s.fetchWord) = s.raiseFault c s.pc s.fetchWord := by
  rw [State.faultIn, encode_decode, advancePc_pc, BitVec.add_sub_cancel]
  rfl

/-- A fault of the fetched instruction is recorded with its address, its opcode and its cause (R151). -/
theorem faulted_recordOk {c : FaultCause} (hpc : s.pc.toNat ≤ lastFetch)
    (hc : s.advancePc.faultsIn (decode s.fetchWord) c) : (s.raiseFault c s.pc s.fetchWord).faultRecordOk := by
  cases c with
  | fetchRange => exact hc.elim
  | stackOverflow => exact ⟨rfl, rfl, hpc, hc⟩
  | stackUnderflow => exact ⟨rfl, rfl, hpc, hc⟩
  | keyRange => exact ⟨rfl, rfl, hpc, hc⟩
  | illegalInstruction =>
    obtain ⟨hs, w, hw⟩ := hc
    exact ⟨rfl, rfl, hpc, hs, nop_of_decode hw ▸ hw⟩

/-! ## The steps -/

theorem advancePc_toNat (h : s.pc.toNat ≤ lastFetch) : s.advancePc.pc.toNat = s.pc.toNat + 2 := by
  unfold lastFetch at h
  rw [advancePc_pc, instrBytes]
  bv_omega

/-- An instruction executed at a PC that fetches keeps the invariant, whether it faults or not. -/
theorem endCycle_inv (hinv : s.Inv) (hr : s.status = .running) (hpc : s.pc.toNat ≤ lastFetch)
    (he : Effect s.advancePc (decode s.fetchWord) t) : (t.endCycle s.fetchWord).Inv := by
  have hadv := advancePc_toNat hpc
  have hlo : 2 ≤ s.advancePc.pc.toNat := by omega
  have hhi : s.advancePc.pc.toNat ≤ 0x1000 := by unfold lastFetch at hpc; omega
  obtain ⟨-, -, hparams, -, hcycles, -⟩ := he.hostSide
  have hframe : t.cyclesLeft ≤ t.params.ipt := by rw [hparams, hcycles]; exact hinv.frameBound
  have hmem := he.mem_wf hinv.memCanonical
  have hi := he.i_lt hinv.indexInRange
  have hstack := he.stackEntriesOk hinv.stackEntries hlo hhi
  have hpc' := he.pc_le hinv.stackEntries hlo hhi
  rcases he.running_or_fault hr with ht | ⟨c, hc, ht⟩
  · rw [endCycle_running _ _ ht]
    exact ⟨hmem, hi, hstack, hpc', Nat.le_trans (Nat.sub_le _ _) hframe, faultRecordOk_of_running ht⟩
  · rw [endCycle_stopped _ _ (by simp [ht])]
    refine ⟨hmem, hi, hstack, hpc', hframe, ?_⟩
    rw [ht, faultIn_advancePc]
    exact faulted_recordOk hpc hc

theorem raiseFault_fetchRange_inv (hinv : s.Inv) (hpc : lastFetch < s.pc.toNat) :
    (s.raiseFault .fetchRange s.pc 0).Inv :=
  ⟨hinv.memCanonical, hinv.indexInRange, hinv.stackEntries, hinv.pcBound, hinv.frameBound,
    rfl, rfl, hpc⟩

theorem tick_inv (hinv : s.Inv) (hr : s.status = .running) : s.tick.Inv :=
  ⟨hinv.memCanonical, hinv.indexInRange, hinv.stackEntries, hinv.pcBound, Nat.le_refl _,
    faultRecordOk_of_running hr⟩

theorem step_inv (hinv : s.Inv) (h : step s = .next t) : t.Inv := by
  rcases step_cases s h with ⟨-, rfl⟩ | ⟨hr, -, rfl⟩ | ⟨hr, -, hc⟩
  · exact hinv
  · exact tick_inv hinv hr
  · rcases cycle_cases s hc with ⟨hpc, rfl⟩ | ⟨hpc, u, hu, rfl⟩
    · exact raiseFault_fetchRange_inv hinv hpc
    · exact endCycle_inv hinv hr hpc (exec_effect hu)

/-- Settles O20: a stopped step, a tick, a fetch fault and an executed instruction each keep the invariant. -/
theorem everyStepKeepsTheInvariant : Obligations.EveryStepKeepsTheInvariant :=
  fun _ _ => step_inv

/-! ## Reset -/

/-- The invariant of a machine that has run nothing yet: empty stack, I = 0, PC = 0x200, no fault. -/
theorem resetWith_inv (p : Params) (glyphs : Vector Byte 75) (rom rand : List Byte) (keys : List Keypad) :
    (State.resetWith p glyphs rom rand keys).Inv := by
  have hm := Memory.wf_writeList Memory.wf_nil fontBase (fontOf glyphs)
  have hi : State.reset.i.toNat < 4096 := by decide
  have hpc : State.reset.pc.toNat ≤ 0x10FE := by decide
  have hstack : State.reset.stackEntriesOk := fun _ hk => absurd hk (Nat.not_lt_zero _)
  unfold State.resetWith
  split
  · exact ⟨hm, hi, hstack, hpc, Nat.le_refl _, trivial⟩
  · exact ⟨Memory.wf_writeList hm _ _, hi, hstack, hpc, Nat.le_refl _, trivial⟩

/-- Settles O19; `State.reset` is the reset with the default parameters and glyphs and an empty ROM. -/
theorem invariantHoldsAfterReset : Obligations.InvariantHoldsAfterReset :=
  ⟨resetWith_customaryGlyphs ▸ resetWith_inv _ _ _ _ _, resetWith_inv⟩

/-- Outside the fontset memory is zero at reset (R25, R31). -/
theorem reset_readByte_zero {a : Addr} (h : a.toNat < 0x050 ∨ 0x09F < a.toNat) : State.reset.readByte a = 0 := by
  show background a.toNat = 0
  unfold background fontBase
  exact if_neg (by omega)

theorem reset_readV (r : Reg) : State.reset.readV r = 0 := by simp [State.readV, State.reset]

/-- Settles O16: memory outside the fontset by `reset_readByte_zero`, the 80 bytes of the fontset and the other
fields by evaluation. -/
theorem resetLeavesTheStatedValues : Obligations.ResetLeavesTheStatedValues :=
  ⟨reset_readV, rfl, rfl, fun _ => by simp [State.reset], rfl, rfl, rfl,
    fun _ => by simp [State.reset, noKeys], pixel_blankScreen, rfl, rfl, rfl, rfl,
    fun _ => reset_readByte_zero, by decide⟩

end Sys2Proof.Machine
end

section
/-! SUPPORT. Memory is big-endian words, every canonical memory is determined by its reads, and a byte that a
store put over the next instruction is what the next fetch reads (20_memory.md). -/

namespace Sys2Proof.Machine

variable {s t u : State}

/-! ## Two bytes are a word -/

theorem joinBytes_toNat (hi lo : Byte) : (joinBytes hi lo).toNat = hi.toNat * 256 + lo.toNat := by
  have := hi.isLt
  have := lo.isLt
  rw [joinBytes, BitVec.toNat_ofNat]
  omega

/-- Settles O6: the word is `joinBytes hi lo`; shorter input is refused by the decoder's own equations. -/
theorem bytesDecodeBigEndian : Obligations.BytesDecodeBigEndian :=
  ⟨fun hi lo _ => ⟨joinBytes hi lo, joinBytes_toNat hi lo, rfl⟩, fun _ => rfl, rfl⟩

theorem fetchWord_div_256 (s : State) :
    s.fetchWord.toNat / 256 = (s.readByte (BitVec.ofNat 12 s.pc.toNat)).toNat := by
  have := (s.readByte (BitVec.ofNat 12 (s.pc.toNat + 1))).isLt
  rw [State.fetchWord, joinBytes_toNat]
  omega

theorem fetchWord_mod_256 (s : State) :
    s.fetchWord.toNat % 256 = (s.readByte (BitVec.ofNat 12 (s.pc.toNat + 1))).toNat := by
  have := (s.readByte (BitVec.ofNat 12 (s.pc.toNat + 1))).isLt
  rw [State.fetchWord, joinBytes_toNat]
  omega

/-! ## The step of a frame that is not over -/

theorem step_eq_cycle (hr : s.status = .running) (hc : s.cyclesLeft ≠ 0) : step s = s.cycle := by
  obtain ⟨n, hn⟩ := Nat.exists_eq_succ_of_ne_zero hc
  rw [step, hr, hn]

theorem cycle_past_memory (hpc : lastFetch < s.pc.toNat) : s.cycle = .next (s.raiseFault .fetchRange s.pc 0) :=
  if_pos hpc

/-- Settles O9: the step is the cycle, whose range check comes before the fetch. -/
theorem fetchPastMemoryFaults : Obligations.FetchPastMemoryFaults :=
  fun _ hr hc hpc => (step_eq_cycle hr hc).trans (cycle_past_memory hpc)

/-- The step of a state that fetches is its instruction, then the cycle's end (R55). -/
theorem step_of_fetches (hf : s.fetches) (h : step s = .next t) :
    ∃ u, exec (decode s.fetchWord) s.advancePc = .next u ∧ t = u.endCycle s.fetchWord := by
  obtain ⟨hr, hc, hpc⟩ := hf
  rw [step_eq_cycle hr hc] at h
  rcases cycle_cases s h with ⟨hpast, -⟩ | ⟨-, hexec⟩
  · omega
  · exact hexec

/-! ## A canonical memory is determined by its reads -/

theorem Memory.lookup_of_mem {m : Memory} (h : m.Pairwise (fun c d => c.1 < d.1)) {c : Host.Cell} (hc : c ∈ m) :
    m.lookup c.1 = c.2 := by
  induction m with
  | nil => simp at hc
  | cons d rest ih =>
    obtain ⟨hd, hrest⟩ := List.pairwise_cons.1 h
    rcases List.mem_cons.1 hc with rfl | hc
    · exact if_pos rfl
    · exact (if_neg (Nat.ne_of_lt (hd c hc))).trans (ih hrest hc)

/-- The cells of a canonical memory are the addresses that do not read as at reset (log 11). -/
theorem Memory.mem_iff {m : Memory} (hm : m.wf) {c : Host.Cell} :
    c ∈ m ↔ c.1 < 4096 ∧ c.2 ≠ background c.1 ∧ m.lookup c.1 = c.2 := by
  obtain ⟨hsorted, hcells⟩ := hm
  constructor
  · intro hc
    obtain ⟨hlt, hne⟩ := hcells c hc
    exact ⟨hlt, hne, Memory.lookup_of_mem hsorted hc⟩
  · rintro ⟨-, hne, hlookup⟩
    have hlisted : ∃ d ∈ m, d.1 = c.1 := by
      by_contra hno
      exact hne (hlookup.symm.trans (Memory.lookup_unlisted fun d hd he => hno ⟨d, hd, he⟩))
    obtain ⟨d, hd, he⟩ := hlisted
    have hdc : d = c := Prod.ext he (by rw [← Memory.lookup_of_mem hsorted hd, he, hlookup])
    exact hdc ▸ hd

theorem Memory.lookup_eq_of_read {m n : Memory} (h : ∀ a : Addr, m.read a = n.read a) {a : Nat} (ha : a < 4096) :
    m.lookup a = n.lookup a := by
  have hr := h (BitVec.ofNat 12 a)
  rwa [Memory.read, Memory.read, BitVec.toNat_ofNat, Nat.mod_eq_of_lt ha] at hr

/-- Two lists of cells with rising addresses and the same members are equal. -/
theorem Memory.eq_of_mem_iff {m n : Memory} (hm : m.Pairwise (fun c d => c.1 < d.1))
    (hn : n.Pairwise (fun c d => c.1 < d.1)) (h : ∀ c, c ∈ m ↔ c ∈ n) : m = n := by
  have : Std.Irrefl fun c d : Host.Cell => c.1 < d.1 := ⟨fun _ => Nat.lt_irrefl _⟩
  have : Std.Antisymm fun c d : Host.Cell => c.1 < d.1 := ⟨fun _ _ h h' => absurd h (Nat.lt_asymm h')⟩
  exact hm.eq_of_mem_iff hn h

/-- Settles O46: the reads determine the cells, and the cells in rising order are the memory. -/
theorem canonicalMemoriesAreTheirReads : Obligations.CanonicalMemoriesAreTheirReads := by
  intro m n hm hn hread
  refine Memory.eq_of_mem_iff hm.1 hn.1 fun c => ?_
  rw [Memory.mem_iff hm, Memory.mem_iff hn]
  refine and_congr_right fun hlt => ?_
  rw [Memory.lookup_eq_of_read hread hlt]

/-! ## What a store leaves behind -/

/-- `Stores s l t`: t holds the bytes l at the effective addresses EA(0), EA(1), ... of s and s's bytes
elsewhere, in canonical memory and with the PC of s. Nothing is said of the other fields. -/
structure Stores (s : State) (l : List Byte) (t : State) : Prop where
  pc : t.pc = s.pc
  canonical : t.mem.wf
  stored : ∀ k b, l[k]? = some b → t.readByte (s.ea k) = b
  kept : ∀ a, (∀ k < l.length, a ≠ s.ea k) → t.readByte a = s.readByte a

theorem Stores.nil (hm : s.mem.wf) : Stores s [] s where
  pc := rfl
  canonical := hm
  stored := by simp
  kept _ _ := rfl

/-- One byte more, at the next effective address; the address space is not yet used up. -/
theorem Stores.snoc {l : List Byte} (h : Stores s l t) (hl : l.length < 4096) (b : Byte) :
    Stores s (l ++ [b]) (t.writeByte (s.ea l.length) b) where
  pc := h.pc
  canonical := writeByte_wf h.canonical _ _
  stored k c hk := by
    rcases Nat.lt_trichotomy k l.length with hlt | rfl | hgt
    · have hne : s.ea k ≠ s.ea l.length := fun he => by have := ea_injective s (by omega) hl he; omega
      rw [readByte_writeByte_other _ _ hne]
      exact h.stored k c (by rwa [List.getElem?_append_left hlt] at hk)
    · rw [readByte_writeByte_same h.canonical]
      simpa using hk
    · rw [List.getElem?_eq_none (by rw [List.length_append, List.length_singleton]; omega)] at hk
      cases hk
  kept a ha := by
    simp only [List.length_append, List.length_singleton] at ha
    rw [readByte_writeByte_other _ _ (ha _ (by omega))]
    exact h.kept a fun k hk => ha k (by omega)

/-- A state with the same memory and PC holds the same store. -/
theorem Stores.congr {l : List Byte} (h : Stores s l t) (hm : u.mem = t.mem) (hpc : u.pc = t.pc) :
    Stores s l u where
  pc := hpc.trans h.pc
  canonical := hm ▸ h.canonical
  stored := by simpa only [State.readByte, hm] using h.stored
  kept := by simpa only [State.readByte, hm] using h.kept

/-- The values of V[0] to V[n - 1], in the order Fx55 stores them (R144). -/
def State.firstRegs (s : State) (n : Nat) : List Byte := ((List.finRange 16).take n).map s.readV

theorem length_firstRegs (s : State) {n : Nat} (hn : n ≤ 16) : (s.firstRegs n).length = n := by
  simp [State.firstRegs, hn]

theorem firstRegs_toNat (s : State) (n : Nat) :
    (s.firstRegs n).map BitVec.toNat = ((List.finRange 16).take n).map fun r => (s.readV r).toNat :=
  List.map_map

theorem firstRegs_succ (s : State) {n : Nat} (hn : n < 16) :
    s.firstRegs (n + 1) = s.firstRegs n ++ [s.readV (regOf n)] := by
  have hreg : regOf n = ⟨n, hn⟩ := Fin.ext (regOf_val hn)
  simp [State.firstRegs, List.take_add_one, hn, hreg]

theorem stores_storeRegs (hm : s.mem.wf) {n : Nat} (hn : n ≤ 16) : Stores s (s.firstRegs n) (s.storeRegs n) := by
  induction n with
  | zero => exact .nil hm
  | succ n ih =>
    have hlen : (s.firstRegs n).length = n := length_firstRegs s (by omega)
    have h := (ih (by omega)).snoc (by omega) (s.readV (regOf n))
    rw [hlen] at h
    rwa [firstRegs_succ s hn, storeRegs_succ]

/-- What Fx55 leaves behind (R144). -/
theorem stores_of_exec_store {x : Reg} (hm : s.mem.wf) (h : exec (.store x) s = .next t) :
    Stores s (s.firstRegs (x.val + 1)) t := by
  cases h
  exact (stores_storeRegs hm x.isLt).congr (bumpI_mem _ _) (bumpI_pc _ _)

/-- The decimal digits of a register, in the order Fx33 stores them (R143). -/
def State.digits (s : State) (x : Reg) : List Byte := [hundreds (s.readV x), tens (s.readV x), ones (s.readV x)]

theorem hundreds_toNat (b : Byte) : (hundreds b).toNat = b.toNat / 100 := by
  have := b.isLt
  rw [hundreds, BitVec.toNat_ofNat]
  omega

theorem tens_toNat (b : Byte) : (tens b).toNat = b.toNat / 10 % 10 := by
  rw [tens, BitVec.toNat_ofNat]
  omega

theorem ones_toNat (b : Byte) : (ones b).toNat = b.toNat % 10 := by
  rw [ones, BitVec.toNat_ofNat]
  omega

theorem digits_toNat (s : State) (x : Reg) : (s.digits x).map BitVec.toNat =
    [(s.readV x).toNat / 100, (s.readV x).toNat / 10 % 10, (s.readV x).toNat % 10] := by
  simp only [State.digits, List.map_cons, List.map_nil, hundreds_toNat, tens_toNat, ones_toNat]

/-- What Fx33 leaves behind (R143). -/
theorem stores_of_exec_ldB {x : Reg} (hm : s.mem.wf) (h : exec (.ldB x) s = .next t) :
    Stores s (s.digits x) t := by
  cases h
  exact (((Stores.nil hm).snoc (by simp) _).snoc (by simp) _).snoc (by simp) _

/-! ## The next fetch -/

section
variable {l : List Byte} {a : Nat}

/-- The byte at an address the store reached, the address given as a number (R37). -/
theorem Stores.read_stored (h : Stores s l t) {k : Nat} {b : Byte} (hk : l[k]? = some b)
    (ha : (s.i.toNat + k) % 4096 = a) : t.readByte (BitVec.ofNat 12 a) = b := by
  have hea : s.ea k = BitVec.ofNat 12 a := BitVec.eq_of_toNat_eq (by rw [ea_toNat, ← ha]; simp)
  exact hea ▸ h.stored k b hk

/-- The byte at an address the store did not reach (R37). -/
theorem Stores.read_kept (h : Stores s l t) (hlt : a < 4096) (ha : ∀ k < l.length, (s.i.toNat + k) % 4096 ≠ a) :
    t.readByte (BitVec.ofNat 12 a) = s.readByte (BitVec.ofNat 12 a) := by
  refine h.kept _ fun k hk he => ha k hk ?_
  rw [← ea_toNat, ← he, BitVec.toNat_ofNat, Nat.mod_eq_of_lt hlt]

end

/-- Settles O45: the store leaves its bytes behind with PC advanced, the end of the cycle touches neither, and the
next fetch reads the bytes at PC + 2 and PC + 3 there. -/
theorem storeIsSeenByTheNextFetch : Obligations.StoreIsSeenByTheNextFetch := by
  intro s t x stored hf hpc hm hstep hinstr
  obtain ⟨u, hexec, rfl⟩ := step_of_fetches hf hstep
  obtain ⟨l, rfl, hu⟩ : ∃ l : List Byte, stored = l.map BitVec.toNat ∧ Stores s.advancePc l u := by
    rcases hinstr with ⟨hi, rfl⟩ | ⟨hi, rfl⟩
    · exact ⟨_, (firstRegs_toNat s.advancePc _).symm, stores_of_exec_store hm (hi ▸ hexec)⟩
    · exact ⟨_, (digits_toNat s.advancePc x).symm, stores_of_exec_ldB hm (hi ▸ hexec)⟩
  have hs := hu.congr (endCycle_mem u s.fetchWord) (endCycle_pc u s.fetchWord)
  have hnext : (u.endCycle s.fetchWord).pc.toNat = s.pc.toNat + 2 := by
    rw [hs.pc, advancePc_toNat (Nat.le_trans hpc (by decide))]
  rw [fetchWord_div_256, fetchWord_mod_256, hnext, List.length_map]
  refine ⟨rfl, fun k b hk => ?_, fun hno => ?_, fun hno => ?_⟩
  · rw [List.getElem?_map, Option.map_eq_some_iff] at hk
    obtain ⟨c, hc, rfl⟩ := hk
    exact ⟨fun ha => congrArg _ (hs.read_stored hc ha), fun ha => congrArg _ (hs.read_stored hc ha)⟩
  · exact congrArg _ (hs.read_kept (by omega) hno)
  · exact congrArg _ (hs.read_kept (by omega) hno)

end Sys2Proof.Machine
end

section
/-! SUPPORT. Which words are unmapped, and that decoding the word of an instruction gives the instruction back, so
that its operands stand where its format puts them (30_encoding.md R50 to R58). -/

namespace Sys2Proof.Machine

open Laws

variable {w : Word}

/-! ## The selectors as remainders -/

theorem bits_low (w : Word) : bits w 3 0 = w.toNat % 16 := by simp [bits]

theorem bits_lowByte (w : Word) : bits w 7 0 = w.toNat % 256 := by simp [bits]

theorem leading_lt (w : Word) : bits w 15 12 < 16 := Nat.mod_lt _ (by decide)

theorem low_lt (w : Word) : bits w 3 0 < 16 := Nat.mod_lt _ (by decide)

/-! ## The unmapped words -/

theorem unmappedWord_iff (w : Word) : unmappedWord w = true ↔
    (w.toNat / 4096 = 0x0 ∧ w.toNat % 16 ∉ [0x0, 0xE]) ∨
    (w.toNat / 4096 = 0x8 ∧ w.toNat % 16 ∈ [0x8, 0x9, 0xA, 0xB, 0xC, 0xD, 0xF]) ∨
    (w.toNat / 4096 = 0xE ∧ w.toNat % 16 ∉ [0x1, 0xE]) ∨
    (w.toNat / 4096 = 0xF ∧ w.toNat % 256 ∉ [0x07, 0x0A, 0x15, 0x18, 0x1E, 0x29, 0x33, 0x55, 0x65]) := by
  unfold unmappedWord
  dsimp only
  generalize w.toNat / 4096 = op
  split_ifs <;> simp [*]

theorem decodeFamily0_eq_nop_iff : decodeFamily0 w = .nop w ↔ w.toNat % 16 ∉ [0x0, 0xE] := by
  unfold decodeFamily0
  rw [← bits_low]
  split <;> simp_all

theorem decodeFamily8_eq_nop_iff :
    decodeFamily8 w = .nop w ↔ w.toNat % 16 ∈ [0x8, 0x9, 0xA, 0xB, 0xC, 0xD, 0xF] := by
  have hlt := low_lt w
  unfold decodeFamily8
  rw [← bits_low]
  split
  case h_10 =>
    simp only [List.mem_cons, List.not_mem_nil, or_false, true_iff, imp_false] at *
    omega
  all_goals simp [*]

theorem decodeFamilyE_eq_nop_iff : decodeFamilyE w = .nop w ↔ w.toNat % 16 ∉ [0x1, 0xE] := by
  unfold decodeFamilyE
  rw [← bits_low]
  split <;> simp_all

theorem decodeFamilyF_eq_nop_iff : decodeFamilyF w = .nop w ↔
    w.toNat % 256 ∉ [0x07, 0x0A, 0x15, 0x18, 0x1E, 0x29, 0x33, 0x55, 0x65] := by
  unfold decodeFamilyF
  rw [← bits_lowByte]
  split <;> simp_all

/-- The decoder's default arms are reached by the words R58 lists and by no others. -/
theorem decode_eq_nop_iff (w : Word) : decode w = .nop w ↔ unmappedWord w = true := by
  rw [unmappedWord_iff, ← bits_leading]
  unfold decode
  split
  case h_1 h => simp [h, decodeFamily0_eq_nop_iff]
  case h_9 h => simp [h, decodeFamily8_eq_nop_iff]
  case h_15 h => simp [h, decodeFamilyE_eq_nop_iff]
  case h_16 =>
    have hF : bits w 15 12 = 0xF := by
      have hlt := leading_lt w
      simp only [imp_false] at *
      omega
    simp [hF, decodeFamilyF_eq_nop_iff]
  all_goals simp [*]

/-! ## The round trips -/

theorem wf_decode (w : Word) : (decode w).wf = true := by
  cases h : decode w with
  | nop o =>
    obtain rfl := nop_of_decode h
    exact (decode_eq_nop_iff o).1 h
  | _ => rfl

/-- Settles O3: an unmapped instruction holds the word itself, which R58 lists; the encoder loses no bit. -/
theorem everyWordDecodesAndEncodesBack : Obligations.EveryWordDecodesAndEncodesBack :=
  fun w => ⟨wf_decode w, encode_decode w⟩

/-- The encoder's word has the selectors its row is decoded by, and its operands are read back from it: one case
per format of R51. -/
theorem decode_encode {i : Instr} (hi : i.wf = true) : decode (encode i) = i := by
  cases i with
  | nop w => exact (decode_eq_nop_iff w).2 hi
  | jp nnn | call nnn | ldI nnn | jpV0 nnn =>
    simp [encode, decode, leading_ofAddress, fieldNNN_ofAddress, nnn.isLt]
  | cls g | ret g =>
    simp [encode, decode, decodeFamily0, leading_ofIgnored, low_ofIgnored, ignored11to4_ofIgnored, g.isLt]
  | seByte x kk | sneByte x kk | ldByte x kk | addByte x kk | rnd x kk =>
    simp [encode, decode, leading_ofNibblesByte, fieldX_ofNibblesByte, fieldKK_ofNibblesByte, kk.isLt]
  | seReg x y g | sneReg x y g =>
    simp [encode, decode, leading_ofNibbles, fieldX_ofNibbles, fieldY_ofNibbles, ignored3to0_ofNibbles, g.isLt]
  | drw x y n =>
    simp [encode, decode, leading_ofNibbles, fieldX_ofNibbles, fieldY_ofNibbles, fieldN_ofNibbles]
  | ldReg x y | orReg x y | andReg x y | xorReg x y | addReg x y | subReg x y | shrReg x y | subnReg x y
  | shlReg x y =>
    simp [encode, decode, decodeFamily8, leading_ofNibbles, low_ofNibbles, fieldX_ofNibbles, fieldY_ofNibbles]
  | skp x g | sknp x g =>
    simp [encode, decode, decodeFamilyE, leading_ofNibbles, low_ofNibbles, fieldX_ofNibbles,
      ignored7to4_ofNibbles, g.isLt]
  | ldVxDt x | ldVxK x | ldDtVx x | ldStVx x | addI x | ldF x | ldB x | store x | load x =>
    simp [encode, decode, decodeFamilyF, leading_ofNibblesByte, lowByte_ofNibblesByte, fieldX_ofNibblesByte]

/-- Settles O2, by cases on the formats. -/
theorem decodeOfEncodeIsTheInstruction : Obligations.DecodeOfEncodeIsTheInstruction :=
  fun _ => decode_encode

/-! ## The places of the operands -/

theorem decode_eq_iff {i : Instr} (hi : i.wf = true) : decode w = i ↔ w = encode i :=
  ⟨fun h => h ▸ (encode_decode w).symm, fun h => h ▸ decode_encode hi⟩

/-- Settles O5: by the two round trips w decodes to i iff it is i's word, whose number is that of i's format. -/
theorem operandsStandWhereTheFormatsSay : Obligations.OperandsStandWhereTheFormatsSay := by
  intro w x y n k kk g nnn
  have := x.isLt
  have := y.isLt
  have := n.isLt
  have := k.isLt
  have := kk.isLt
  have := g.isLt
  have := nnn.isLt
  and_intros
  all_goals
    rw [decode_eq_iff rfl, ← BitVec.toNat_inj]
    simp (disch := omega) only [encode, toNat_ofIgnored, toNat_ofAddress, toNat_ofNibbles,
      toNat_ofNibblesByte] <;> omega

/-- Settles O1: the decoder evaluates each word to the instruction the spec gives it. -/
theorem specWordsDecodeToTheirInstructions : Obligations.SpecWordsDecodeToTheirInstructions := by
  unfold Obligations.SpecWordsDecodeToTheirInstructions
  decide

end Sys2Proof.Machine
end

section
/-! SUPPORT. The opcode map: a word selects the row of the instruction it decodes to and no other
(30_encoding.md R56). -/

namespace Sys2Proof.Machine

variable {w p m : Word}

/-! ## Masks -/

/-- AND acts on the bits from i up and on the bits below i on their own. -/
theorem two_pow_mul_add_and {b d i : Nat} (a c : Nat) (hb : b < 2 ^ i) (hd : d < 2 ^ i) :
    (2 ^ i * a + b) &&& (2 ^ i * c + d) = 2 ^ i * (a &&& c) + (b &&& d) := by
  refine Nat.eq_of_testBit_eq fun k => ?_
  rw [Nat.testBit_and, Nat.testBit_two_pow_mul_add a hb, Nat.testBit_two_pow_mul_add c hd,
    Nat.testBit_two_pow_mul_add _ (Nat.and_lt_two_pow b hd)]
  split <;> rw [Nat.testBit_and]

/-- A mask of the leading nibble and the j lowest bits keeps just these; the map's masks are those for j = 0, 4
and 8. -/
theorem toNat_and_mask {j : Nat} (hj : j ≤ 12) (hm : m.toNat = 2 ^ 12 * (2 ^ 4 - 1) + (2 ^ j - 1)) (w : Word) :
    (w &&& m).toNat = 2 ^ 12 * bits w 15 12 + w.toNat % 2 ^ j := by
  have hd : 2 ^ j - 1 < 2 ^ 12 := Nat.sub_one_lt_of_le (Nat.two_pow_pos j) (Nat.pow_le_pow_right (by decide) hj)
  have hb : w.toNat % 2 ^ 12 < 2 ^ 12 := Nat.mod_lt _ (by decide)
  calc (w &&& m).toNat
    _ = (2 ^ 12 * (w.toNat / 2 ^ 12) + w.toNat % 2 ^ 12) &&& (2 ^ 12 * (2 ^ 4 - 1) + (2 ^ j - 1)) := by
      rw [BitVec.toNat_and, hm, Nat.div_add_mod]
    _ = 2 ^ 12 * (w.toNat / 2 ^ 12 % 2 ^ 4) + w.toNat % 2 ^ 12 % 2 ^ j := by
      rw [two_pow_mul_add_and _ _ hb hd, Nat.and_two_pow_sub_one_eq_mod, Nat.and_two_pow_sub_one_eq_mod]
    _ = 2 ^ 12 * bits w 15 12 + w.toNat % 2 ^ j := by
      rw [Nat.mod_mod_of_dvd _ (Nat.pow_dvd_pow 2 hj), bits]

/-- A word matches a pattern under such a mask iff the fields the mask keeps are the pattern's. -/
theorem and_mask_eq_iff {j : Nat} (hj : j ≤ 12) (hm : m.toNat = 2 ^ 12 * (2 ^ 4 - 1) + (2 ^ j - 1))
    (hp : p &&& m = p) :
    w &&& m = p ↔ bits w 15 12 = bits p 15 12 ∧ w.toNat % 2 ^ j = p.toNat % 2 ^ j := by
  have hlow (v : Word) : v.toNat % 2 ^ j < 2 ^ 12 :=
    Nat.lt_of_lt_of_le (Nat.mod_lt _ (Nat.two_pow_pos j)) (Nat.pow_le_pow_right (by decide) hj)
  have hlw := hlow w
  have hlp := hlow p
  conv_lhs => rw [← hp, ← BitVec.toNat_inj, toNat_and_mask hj hm, toNat_and_mask hj hm]
  omega

theorem and_F000_eq_iff (hp : p &&& 0xF000 = p) : w &&& 0xF000 = p ↔ bits w 15 12 = bits p 15 12 := by
  have h := and_mask_eq_iff (w := w) (j := 0) (by decide) (by decide) hp
  rwa [Nat.pow_zero, Nat.mod_one, Nat.mod_one, eq_self_iff_true, and_true] at h

theorem and_F00F_eq_iff (hp : p &&& 0xF00F = p) :
    w &&& 0xF00F = p ↔ bits w 15 12 = bits p 15 12 ∧ bits w 3 0 = bits p 3 0 := by
  rw [bits_low, bits_low]
  exact and_mask_eq_iff (j := 4) (by decide) (by decide) hp

theorem and_F0FF_eq_iff (hp : p &&& 0xF0FF = p) :
    w &&& 0xF0FF = p ↔ bits w 15 12 = bits p 15 12 ∧ bits w 7 0 = bits p 7 0 := by
  rw [bits_lowByte, bits_lowByte]
  exact and_mask_eq_iff (j := 8) (by decide) (by decide) hp

/-! ## The rows -/

theorem row_mem_opRows {i : Instr} (h : ∀ w, i ≠ .nop w) : i.row ∈ opRows := by
  cases i with
  | nop w => exact absurd rfl (h w)
  | _ => simp [Instr.row, opRows, opRowsLow, opRows8, opRowsMid, opRowsF]

theorem nop_row_not_mem_opRows (w : Word) : (Instr.nop w).row ∉ opRows := by
  simp [Instr.row, opRows, opRowsLow, opRows8, opRowsMid, opRowsF]

/-- Every row of the map is that of the instruction its pattern decodes to. -/
theorem exists_row_eq {r : OpRow} (hr : r ∈ opRows) : ∃ i : Instr, (∀ w, i ≠ .nop w) ∧ i.row = r := by
  have hrows : ∀ r ∈ opRows, (decode r.pattern).row = r := by decide
  refine ⟨decode r.pattern, fun v hv => nop_row_not_mem_opRows v ?_, hrows r hr⟩
  rwa [← hv, hrows r hr]

/-! ## A word selects the row of the instruction it decodes to -/

theorem decodeFamily0_and_mask (h : bits w 15 12 = 0x0) :
    w &&& (decodeFamily0 w).row.mask = (decodeFamily0 w).row.pattern := by
  unfold decodeFamily0
  split
  case h_3 => exact BitVec.and_zero
  all_goals
    dsimp only [Instr.row]
    exact (and_F00F_eq_iff rfl).2 ⟨h, ‹_›⟩

theorem decodeFamily8_and_mask (h : bits w 15 12 = 0x8) :
    w &&& (decodeFamily8 w).row.mask = (decodeFamily8 w).row.pattern := by
  unfold decodeFamily8
  split
  case h_10 => exact BitVec.and_zero
  all_goals
    dsimp only [Instr.row]
    exact (and_F00F_eq_iff rfl).2 ⟨h, ‹_›⟩

theorem decodeFamilyE_and_mask (h : bits w 15 12 = 0xE) :
    w &&& (decodeFamilyE w).row.mask = (decodeFamilyE w).row.pattern := by
  unfold decodeFamilyE
  split
  case h_3 => exact BitVec.and_zero
  all_goals
    dsimp only [Instr.row]
    exact (and_F00F_eq_iff rfl).2 ⟨h, ‹_›⟩

theorem decodeFamilyF_and_mask (h : bits w 15 12 = 0xF) :
    w &&& (decodeFamilyF w).row.mask = (decodeFamilyF w).row.pattern := by
  unfold decodeFamilyF
  split
  case h_10 => exact BitVec.and_zero
  all_goals
    dsimp only [Instr.row]
    exact (and_F0FF_eq_iff rfl).2 ⟨h, ‹_›⟩

theorem decode_and_mask (w : Word) : w &&& (decode w).row.mask = (decode w).row.pattern := by
  unfold decode
  split
  case h_1 h => exact decodeFamily0_and_mask h
  case h_9 h => exact decodeFamily8_and_mask h
  case h_15 h => exact decodeFamilyE_and_mask h
  case h_16 =>
    refine decodeFamilyF_and_mask ?_
    have hlt := leading_lt w
    simp only [imp_false] at *
    omega
  all_goals
    dsimp only [Instr.row]
    exact (and_F000_eq_iff rfl).2 ‹_›

/-- A word that selects the row of an instruction decodes to an instruction of that row: the fields under the mask
are all that the decoder dispatches on. -/
theorem row_decode_of_and_mask {i : Instr} (hi : ∀ w, i ≠ .nop w) (h : w &&& i.row.mask = i.row.pattern) :
    (decode w).row = i.row := by
  cases i with
  | nop w => exact absurd rfl (hi w)
  | jp | call | ldI | jpV0 | seByte | sneByte | ldByte | addByte | rnd | seReg | sneReg | drw =>
    dsimp only [Instr.row] at h ⊢
    have hl := (and_F000_eq_iff rfl).1 h
    rw [decode, hl]
    rfl
  | cls | ret | skp | sknp | ldReg | orReg | andReg | xorReg | addReg | subReg | shrReg | subnReg | shlReg =>
    dsimp only [Instr.row] at h ⊢
    obtain ⟨hl, hk⟩ := (and_F00F_eq_iff rfl).1 h
    simp only [decode, decodeFamily0, decodeFamily8, decodeFamilyE, hl, hk]
    rfl
  | ldVxDt | ldVxK | ldDtVx | ldStVx | addI | ldF | ldB | store | load =>
    dsimp only [Instr.row] at h ⊢
    obtain ⟨hl, hk⟩ := (and_F0FF_eq_iff rfl).1 h
    simp only [decode, decodeFamilyF, hl, hk]
    rfl

theorem and_mask_eq_iff_row_decode {r : OpRow} (hr : r ∈ opRows) :
    w &&& r.mask = r.pattern ↔ (decode w).row = r := by
  constructor
  · intro h
    obtain ⟨i, hi, rfl⟩ := exists_row_eq hr
    exact row_decode_of_and_mask hi h
  · rintro rfl
    exact decode_and_mask w

theorem selects_no_row_iff (w : Word) : (∀ r ∈ opRows, w &&& r.mask ≠ r.pattern) ↔ decode w = .nop w := by
  constructor
  · intro hno
    by_contra hne
    have hmapped : ∀ o, decode w ≠ .nop o := fun o ho => hne (nop_of_decode ho ▸ ho)
    exact hno _ (row_mem_opRows hmapped) (decode_and_mask w)
  · intro hnop r hr h
    have hrow := (and_mask_eq_iff_row_decode hr).1 h
    exact nop_row_not_mem_opRows w (by rwa [← hnop, hrow])

/-- Settles O4: a word selects the row of the instruction it decodes to and no other, and decodes to one
instruction. -/
theorem rowsAreSelectedByMaskAndMatch : Obligations.RowsAreSelectedByMaskAndMatch :=
  ⟨fun _ => row_mem_opRows, fun _ _ => and_mask_eq_iff_row_decode,
    fun _ _ _ hr hq h h' => ((and_mask_eq_iff_row_decode hr).1 h).symm.trans ((and_mask_eq_iff_row_decode hq).1 h'),
    selects_no_row_iff⟩

end Sys2Proof.Machine
end

section
/-! SUPPORT. Every instruction, cycle and step answers a next state; the cycle of a state that fetches, and what the
unmapped words do (30_encoding.md R55, R58; 60_exceptions.md R150 to R155). -/

namespace Sys2Proof.Machine

variable {s t : State} {i : Instr}

/-! ## Nothing stops the model -/

theorem exec_answers (i : Instr) (s : State) : ∃ t, exec i s = .next t := by
  cases i with
  | ret | call | skp | sknp | ldVxK | nop =>
    simp only [exec, execRet, execCall, execSkp, execSknp, execLdVxK, execNop]
    split <;> exact ⟨_, rfl⟩
  | _ => exact ⟨_, rfl⟩

theorem cycle_of_exec (hpc : s.pc.toNat ≤ lastFetch) (h : exec (decode s.fetchWord) s.advancePc = .next t) :
    s.cycle = .next (t.endCycle s.fetchWord) := by
  rw [State.cycle, if_neg (Nat.not_lt.2 hpc), h]

theorem cycle_answers (s : State) : ∃ t, s.cycle = .next t := by
  by_cases hpc : lastFetch < s.pc.toNat
  · exact ⟨_, cycle_past_memory hpc⟩
  · obtain ⟨t, ht⟩ := exec_answers (decode s.fetchWord) s.advancePc
    exact ⟨_, cycle_of_exec (Nat.not_lt.1 hpc) ht⟩

theorem step_answers (s : State) : ∃ t, step s = .next t := by
  unfold step
  split
  · split
    · exact ⟨_, rfl⟩
    · exact cycle_answers s
  · exact ⟨_, rfl⟩
  · exact ⟨_, rfl⟩

/-- Settles O12: no arm of `exec` refuses or faults outside the state, and neither does the cycle or the tick. -/
theorem everyStepAnswersANextState : Obligations.EveryStepAnswersANextState :=
  fun s => ⟨step_answers s, fun i => exec_answers i s⟩

/-- Settles O8: the word at PC is the fetched one, and the end of the cycle counts against the frame's cycles,
which no instruction changes. -/
theorem stepRunsTheDecodedInstruction : Obligations.StepRunsTheDecodedInstruction := by
  rintro s w i ⟨hr, hc, hpc⟩ hw rfl
  obtain rfl : w = s.fetchWord := BitVec.eq_of_toNat_eq (hw.trans (joinBytes_toNat _ _).symm)
  obtain ⟨t, ht⟩ := exec_answers (decode s.fetchWord) s.advancePc
  have hstep : step s = .next (t.endCycle s.fetchWord) := (step_eq_cycle hr hc).trans (cycle_of_exec hpc ht)
  obtain ⟨-, -, -, -, hcycles, -⟩ := (exec_effect ht).hostSide
  refine ⟨t, ht, fun hrun => ?_, fun hstop => ?_⟩
  · rw [hstep, endCycle_running _ _ hrun, hcycles, advancePc_cyclesLeft]
  · rw [hstep, endCycle_stopped _ _ hstop]

/-! ## The unmapped words -/

/-- A fault of the execute phase puts PC back by the two bytes the fetch advanced it (R152). -/
theorem raisesFault_of_exec {c : FaultCause} (h : exec i s = .next (s.faultIn c i)) : RaisesFault i s c := by
  have hpc : (s.pc - instrBytes).toNat = (s.pc.toNat + 65534) % 65536 := by
    unfold instrBytes
    bv_omega
  exact ⟨_, h, rfl, hpc, rfl⟩

theorem exec_nop_lenient (w : Word) (h : s.params.strictDecode = false) : exec (.nop w) s = .next s := by
  simp [exec, execNop, h]

theorem exec_nop_strict (w : Word) (h : s.params.strictDecode = true) :
    exec (.nop w) s = .next (s.faultIn .illegalInstruction (.nop w)) := by
  simp [exec, execNop, h]

/-- Settles O7: the decoder's default arms are R58's list, and the two settings of `STRICT_DECODE` are the two
branches of the unmapped word. -/
theorem unmappedWordsAreNoOpsOrIllegal : Obligations.UnmappedWordsAreNoOpsOrIllegal :=
  ⟨fun w => (decode_eq_nop_iff w).trans (unmappedWord_iff w),
    fun w _ => ⟨exec_nop_lenient w, fun h => raisesFault_of_exec (exec_nop_strict w h)⟩⟩

end Sys2Proof.Machine
end

section
/-! SUPPORT. The jumps, the call and the return, and the register skips (40_control_flow.md R81 to R90). -/

namespace Sys2Proof.Machine

variable {s t : State} {i : Instr}

/-! ## Jumps -/

theorem setsPc_of_exec_setPc {a : Word} (h : exec i s = .next (s.setPc a)) : SetsPc i s a.toNat :=
  ⟨_, h, rfl, rfl⟩

/-- Settles O21: the target is the address zero-extended. -/
theorem jumpSetsPcToItsAddress : Obligations.JumpSetsPcToItsAddress :=
  fun nnn _ => addressWord_toNat nnn ▸ setsPc_of_exec_setPc rfl

theorem offsetTarget_toNat_of_quirk (nnn : Addr) (h : s.params.qJumpV0 = true) :
    (s.offsetTarget nnn).toNat = ((s.readV 0).toNat + nnn.toNat) % 65536 := by
  rw [State.offsetTarget, if_pos h, BitVec.toNat_ofNat]

/-- Without the quirk the register is the one the high nibble of the address names (R88). -/
theorem offsetTarget_toNat_of_fields {nnn : Addr} {x : Reg} {kk : Byte} (h : s.params.qJumpV0 = false)
    (hfields : nnn.toNat = x.val * 256 + kk.toNat) :
    (s.offsetTarget nnn).toNat = ((s.readV x).toNat + kk.toNat) % 65536 := by
  have hkk := kk.isLt
  have hreg : offsetReg nnn = x := by
    rw [offsetReg, show nnn.toNat / 256 = x.val by omega]
    exact Fin.ext (regOf_val x.isLt)
  have hbyte : offsetByte nnn = kk.toNat := by
    unfold offsetByte
    omega
  rw [State.offsetTarget, if_neg (by simp [h]), hreg, hbyte, BitVec.toNat_ofNat]

/-- Settles O22: Bnnn sets PC to its target, which the quirk decides. -/
theorem jumpWithOffsetAddsItsRegister : Obligations.JumpWithOffsetAddsItsRegister := by
  intro nnn x kk s hfields
  have hjump : SetsPc (.jpV0 nnn) s (s.offsetTarget nnn).toNat := setsPc_of_exec_setPc rfl
  exact ⟨fun h => offsetTarget_toNat_of_quirk nnn h ▸ hjump, fun h => offsetTarget_toNat_of_fields h hfields ▸ hjump⟩

/-! ## Skips -/

theorem setsPc_of_exec_skipIf {c : Bool} (h : exec i s = .next (s.skipIf c)) :
    SetsPc i s (if c then (s.pc.toNat + 2) % 65536 else s.pc.toNat) := by
  cases c with
  | false => exact ⟨_, h, rfl, rfl⟩
  | true => exact ⟨_, h, rfl, BitVec.toNat_add _ _⟩

/-- Settles O26: each skip is `skipIf` on the Boolean of its comparison. -/
theorem skipsAdvancePcIffTheComparisonHolds : Obligations.SkipsAdvancePcIffTheComparisonHolds := by
  intro x y kk g s
  refine ⟨?_, ?_, ?_, ?_⟩
  · simpa using setsPc_of_exec_skipIf (i := .seByte x kk) (c := s.readV x == kk) rfl
  · simpa using setsPc_of_exec_skipIf (i := .sneByte x kk) (c := s.readV x != kk) rfl
  · simpa using setsPc_of_exec_skipIf (i := .seReg x y g) (c := s.readV x == s.readV y) rfl
  · simpa using setsPc_of_exec_skipIf (i := .sneReg x y g) (c := s.readV x != s.readV y) rfl

/-! ## Call and return -/

theorem exec_call_of_push (nnn : Addr) (h : s.push? s.pc = some t) :
    exec (.call nnn) s = .next (t.setPc (addressWord nnn)) := by
  simp only [exec, execCall, h]

theorem exec_call_full (nnn : Addr) (h : s.sp.val = 16) :
    exec (.call nnn) s = .next (s.faultIn .stackOverflow (.call nnn)) := by
  simp only [exec, execCall, push?_none s h]

theorem exec_ret_of_pop (g : Byte) {a : Word} (h : s.pop? = some (a, t)) :
    exec (.ret g) s = .next (t.setPc a) := by
  simp only [exec, execRet, h]

theorem exec_ret_empty (g : Byte) (h : s.sp.val = 0) :
    exec (.ret g) s = .next (s.faultIn .stackUnderflow (.ret g)) := by
  simp only [exec, execRet, pop?_none s h]

/-- Settles O23: the call is a push, then a jump; a push on a full stack is the fault. -/
theorem callPushesTheReturnAddress : Obligations.CallPushesTheReturnAddress := by
  refine fun nnn s => ⟨fun hfree => ?_, fun hfull => raisesFault_of_exec (exec_call_full nnn hfull)⟩
  obtain ⟨u, hpush⟩ := push?_isSome s (a := s.pc) hfree
  obtain ⟨-, hu, hsp, hstack⟩ := push?_eq_some s hpush
  exact ⟨_, exec_call_of_push nnn hpush, congrArg (·.setPc (addressWord nnn)) hu, hstack, hsp, addressWord_toNat nnn⟩

/-- Settles O24: the return is a pop, then a jump to the popped value; a pop from an empty stack is the fault. -/
theorem returnPopsThePc : Obligations.ReturnPopsThePc := by
  refine fun g s => ⟨fun hheld => ?_, fun hempty => raisesFault_of_exec (exec_ret_empty g hempty)⟩
  obtain ⟨a, u, hpop⟩ := pop?_isSome s hheld
  obtain ⟨-, hu, hsp, ha⟩ := pop?_eq_some s hpop
  exact ⟨_, exec_ret_of_pop g hpop, congrArg (·.setPc a) hu, hsp, ha⟩

/-- Settles O25, from O23 and O24: SP goes up and down again, and the popped entry is the pushed PC. -/
theorem returnUndoesACall : Obligations.ReturnUndoesACall := by
  intro nnn g s t hfree hcall
  obtain ⟨t', hcall', ht, hpush, htsp, -⟩ := (callPushesTheReturnAddress nnn s).1 hfree
  obtain rfl : t = t' := Host.Outcome.next.inj (hcall.symm.trans hcall')
  obtain ⟨u, hret, hu, husp, hpop⟩ := (returnPopsThePc g t).1 (by omega)
  have hsp : u.sp = s.sp := Fin.ext (by omega)
  have hpc : u.pc = s.pc := by
    rw [hpop ⟨s.sp.val, hfree⟩ (congrArg Fin.val hsp.symm), hpush, if_pos rfl]
  have hstack : u.stack = t.stack := by rw [hu]
  refine ⟨u, hret, ?_, fun k hk => ?_⟩
  · rw [hu, ht, hsp, hpc]
  · rw [hstack, hpush, if_neg hk]

end Sys2Proof.Machine
end

section
/-! SUPPORT. Loads, arithmetic, logic, shifts and the random instruction (41_load_alu.md R100 to R113). -/

namespace Sys2Proof.Machine

/-! ## The 8-bit arithmetic in the spec's terms -/

theorem sumByte_eq (a b : Byte) : sumByte a b = BitVec.ofNat 8 ((a.toNat + b.toNat) % 256) :=
  BitVec.eq_of_toNat_eq (by simp [sumByte])

/-- The subtraction of naturals stays above 0 by the 256 the modulus takes off again. -/
theorem differenceByte_eq (a b : Byte) :
    differenceByte a b = BitVec.ofNat 8 ((a.toNat + 256 - b.toNat) % 256) := by
  have hb := b.isLt
  refine BitVec.eq_of_toNat_eq ?_
  rw [differenceByte, BitVec.toNat_ofInt, BitVec.toNat_ofNat]
  omega

theorem halfByte_eq (b : Byte) : halfByte b = b >>> 1 := by
  have hb := b.isLt
  refine BitVec.eq_of_toNat_eq ?_
  rw [halfByte, BitVec.toNat_ofNat, BitVec.toNat_ushiftRight, Nat.shiftRight_eq_div_pow]
  omega

theorem doubleByte_eq (b : Byte) : doubleByte b = b <<< 1 := by
  refine BitVec.eq_of_toNat_eq ?_
  rw [doubleByte, BitVec.toNat_ofNat, BitVec.toNat_shiftLeft, Nat.shiftLeft_eq, pow_one]

/-! ## The values of VF -/

theorem carryFlag_eq (a b : Byte) : carryFlag a b = if 255 < a.toNat + b.toNat then 1 else 0 := by
  simp [carryFlag, flagOf]

theorem notBorrowFlag_eq (a b : Byte) : notBorrowFlag a b = if b.toNat ≤ a.toNat then 1 else 0 := by
  simp [notBorrowFlag, flagOf]

/-- Bit k of a byte, as a quotient modulo 2 and as the bit itself. -/
theorem ofNat_div_pow_mod_two (b : Byte) (k : Nat) :
    BitVec.ofNat 8 (b.toNat / 2 ^ k % 2) = if b.getLsbD k then 1 else 0 := by
  rw [BitVec.getLsbD, Nat.testBit_eq_decide_div_mod_eq]
  obtain h | h := Nat.mod_two_eq_zero_or_one (b.toNat / 2 ^ k) <;> simp [h]

theorem shiftedOutRight_eq (b : Byte) : shiftedOutRight b = if b.getLsbD 0 then 1 else 0 := by
  rw [← ofNat_div_pow_mod_two, shiftedOutRight, pow_zero, Nat.div_one]

theorem shiftedOutLeft_eq (b : Byte) : shiftedOutLeft b = if b.getLsbD 7 then 1 else 0 := by
  have hb := b.isLt
  rw [← ofNat_div_pow_mod_two, shiftedOutLeft]
  congr 1
  omega

/-! ## How the instructions of this family write registers -/

variable {s : State} {i : Instr} {x : Reg} {b f : Byte}

theorem setsRegister_of_exec (h : exec i s = .next (s.writeV x b)) : SetsRegister i s x b :=
  ⟨_, h, rfl, readV_writeV_same s x b, fun _ hr => readV_writeV_other s b hr⟩

/-- The flag is written last, so the result shows only where x is not 15 (R113). -/
theorem setsRegisterThenFlag_of_exec (h : exec i s = .next (s.writeResultThenFlag x b f)) :
    SetsRegisterThenFlag i s x b f := by
  refine ⟨_, h, rfl, ?_, fun hx => ?_, fun r hrx hrf => ?_⟩
  · rw [readV_writeResultThenFlag, if_pos rfl]
  · rw [readV_writeResultThenFlag, if_neg hx, if_pos rfl]
  · rw [readV_writeResultThenFlag, if_neg hrf, if_neg hrx]

theorem writeLogic_of_quirk (hq : s.params.qVfReset = true) :
    s.writeLogic x b = s.writeResultThenFlag x b 0 := if_pos hq

theorem writeLogic_of_no_quirk (hq : s.params.qVfReset = false) : s.writeLogic x b = s.writeV x b :=
  if_neg (Bool.not_eq_true _ ▸ hq)

theorem setsRegisterThenFlag_of_exec_writeLogic (h : exec i s = .next (s.writeLogic x b))
    (hq : s.params.qVfReset = true) : SetsRegisterThenFlag i s x b 0 :=
  setsRegisterThenFlag_of_exec (writeLogic_of_quirk hq ▸ h)

theorem setsRegister_of_exec_writeLogic (h : exec i s = .next (s.writeLogic x b))
    (hq : s.params.qVfReset = false) : SetsRegister i s x b :=
  setsRegister_of_exec (writeLogic_of_no_quirk hq ▸ h)

/-! ## The instructions -/

/-- Settles O28: the three are `writeLogic` of their result, whose two branches are the quirk's settings. -/
theorem logicClearsTheFlagOnlyUnderItsQuirk : Obligations.LogicClearsTheFlagOnlyUnderItsQuirk := by
  refine fun x y s => ⟨fun hq => ?_, fun hq => ?_⟩
  · exact ⟨setsRegisterThenFlag_of_exec_writeLogic rfl hq, setsRegisterThenFlag_of_exec_writeLogic rfl hq,
      setsRegisterThenFlag_of_exec_writeLogic rfl hq⟩
  · exact ⟨setsRegister_of_exec_writeLogic rfl hq, setsRegister_of_exec_writeLogic rfl hq,
      setsRegister_of_exec_writeLogic rfl hq⟩

/-- Settles O29: the sum, then the carry. -/
theorem addSetsTheCarry : Obligations.AddSetsTheCarry := by
  intro x y s
  rw [← sumByte_eq, ← carryFlag_eq]
  exact setsRegisterThenFlag_of_exec rfl

/-- Settles O30: each difference, then NOT borrow of the same operands. -/
theorem subtractsSetNotBorrow : Obligations.SubtractsSetNotBorrow := by
  intro x y s
  simp only [← differenceByte_eq, ← notBorrowFlag_eq]
  exact ⟨setsRegisterThenFlag_of_exec rfl, setsRegisterThenFlag_of_exec rfl⟩

/-- Settles O31: the shifted source, then the bit it lost. -/
theorem shiftsSetTheBitShiftedOut : Obligations.ShiftsSetTheBitShiftedOut := by
  intro x y s a ha
  obtain rfl : a = s.shiftSource x y := ha
  rw [← halfByte_eq, ← doubleByte_eq, ← shiftedOutRight_eq, ← shiftedOutLeft_eq]
  exact ⟨setsRegisterThenFlag_of_exec rfl, setsRegisterThenFlag_of_exec rfl⟩

/-- Settles O27: each of the three is one `writeV`. -/
theorem loadsAndByteAddWriteOneRegister : Obligations.LoadsAndByteAddWriteOneRegister := by
  intro x y kk s
  rw [← sumByte_eq]
  exact ⟨setsRegister_of_exec rfl, setsRegister_of_exec rfl, setsRegister_of_exec rfl⟩

theorem nextRand_of_supplied {rest : List Byte} (h : s.randAhead = b :: rest) : s.nextRand = b := by
  rw [State.nextRand, h, List.headD_cons]

theorem nextRand_of_none_supplied (h : s.randAhead = []) : s.nextRand = Config.rand s.randPos := by
  rw [State.nextRand, h, List.headD_nil]

/-- Settles O32: the byte is consumed, then it is written under the mask; which byte it is depends on whether one
is supplied (log 4). -/
theorem randomTakesOneByteOfTheStream : Obligations.RandomTakesOneByteOfTheStream := by
  intro x kk s
  have hx : (s.advanceRand.writeV x (s.nextRand &&& kk)).readV x = s.nextRand &&& kk :=
    readV_writeV_same s.advanceRand x _
  refine ⟨s.advanceRand.writeV x (s.nextRand &&& kk), rfl, rfl, fun r hr => ?_, fun b rest h => ⟨?_, ?_⟩,
    fun h => ⟨?_, ?_⟩⟩
  · rw [readV_writeV_other _ _ hr, advanceRand_readV]
  · rw [hx, nextRand_of_supplied h]
  · rw [writeV_randAhead, advanceRand_randAhead, h, List.tail_cons]
  · rw [hx, nextRand_of_none_supplied h]
  · rw [writeV_randAhead, advanceRand_randAhead, h, List.tail_nil]

end Sys2Proof.Machine
end

section
/-! SUPPORT. The display instructions (42_display.md R120 to R123). -/

namespace Sys2Proof.Machine

variable {s t : State}

/-- Settles O33: the screen after 00E0 is the blank one. -/
theorem clearTurnsEveryPixelOff : Obligations.ClearTurnsEveryPixelOff :=
  fun _ s => ⟨s.setFb blankScreen, rfl, rfl, pixel_blankScreen⟩

theorem flagOf_eq_one_or_zero (c : Bool) : flagOf c = 1 ∨ flagOf c = 0 := by
  cases c <;> decide

theorem plotSprite_pixel_ne_iff (s : State) {xp yp n : Nat} (hn : n ≤ 32) (r : Fin 32) (c : Fin 64) :
    pixel (s.plotSprite xp yp n).1 r c ≠ pixel s.fb r c ↔ s.spriteCovers xp yp n r c := by
  rw [(plotSprite_spec s xp yp n hn).1]
  by_cases hcov : s.spriteCovers xp yp n r c <;> simp [hcov]

/-- Settles O34: a draw plots the sprite, then writes the collision to VF, and `plotSprite_spec` says what it
plots and when it collides. -/
theorem drawInvertsExactlyTheCoveredPixels : Obligations.DrawInvertsExactlyTheCoveredPixels := by
  intro x y n s
  have hn : n.val ≤ 32 := by omega
  have hflag : ∀ (f : Framebuffer) (b : Byte), ((s.setFb f).writeV regF b).readV regF = b :=
    fun f => readV_writeV_same (s.setFb f) regF
  refine ⟨_, rfl, rfl, fun r hr => readV_writeV_other _ _ hr, plotSprite_pixel_ne_iff s hn, ?_, ?_⟩
  · rw [hflag]
    exact flagOf_eq_one_or_zero _
  · rw [hflag, flagOf_eq_one]
    exact (plotSprite_spec s _ _ n.val hn).2

/-- What a sprite covers does not depend on the registers and the screen, all that a draw changes. -/
theorem spriteCovers_of_eq_withScreen (h : t = { s with v := t.v, fb := t.fb }) :
    t.spriteCovers = s.spriteCovers := by
  rw [h]
  rfl

/-- Settles O35, from O34 for both draws: they cover the same pixels, so each is inverted twice, and the second
finds on exactly those the first found off. -/
theorem drawingTwiceRestoresTheScreen : Obligations.DrawingTwiceRestoresTheScreen := by
  intro x y n s t hx hy hst
  obtain ⟨t', hst', ht, htregs, htpix, -, htflag⟩ := drawInvertsExactlyTheCoveredPixels x y n s
  obtain rfl : t = t' := Host.Outcome.next.inj (hst.symm.trans hst')
  obtain ⟨u, htu, hu, huregs, hupix, -, huflag⟩ := drawInvertsExactlyTheCoveredPixels x y n t
  rw [htregs x hx, htregs y hy, spriteCovers_of_eq_withScreen ht] at hupix huflag
  generalize s.spriteCovers ((s.readV x).toNat % 64) ((s.readV y).toNat % 32) n.val = covered at *
  have hfb : u.fb = s.fb := framebuffer_ext fun r c => by
    by_cases hcov : covered r c
    · rw [Bool.eq_not.2 ((hupix r c).2 hcov), Bool.eq_not.2 ((htpix r c).2 hcov), Bool.not_not]
    · exact (not_ne_iff.1 (mt (hupix r c).1 hcov)).trans (not_ne_iff.1 (mt (htpix r c).1 hcov))
  have hsecond : u.readV regF = 1 ↔ ∃ r c, pixel s.fb r c = false ∧ covered r c := by
    rw [huflag]
    refine exists_congr fun r => exists_congr fun c => and_congr_left fun hcov => ?_
    rw [Bool.eq_not.2 ((htpix r c).2 hcov), Bool.not_eq_true']
  refine ⟨u, htu, ?_, fun r hr => (huregs r hr).trans (htregs r hr), hsecond, fun hclear => ?_⟩
  · rw [hu, ht, hfb]
  · rw [hsecond]
    refine exists_congr fun r => exists_congr fun c => and_iff_right_of_imp fun hcov => ?_
    by_contra hon
    have hone : t.readV regF = 1 := htflag.2 ⟨r, c, Bool.eq_true_of_not_eq_false hon, hcov⟩
    exact absurd (hone.symm.trans hclear) (by decide)

end Sys2Proof.Machine
end

section
/-! SUPPORT. The keypad and timer instructions (43_keypad_timers.md R130 to R136). -/

namespace Sys2Proof.Machine

variable {s : State} {x : Reg}

/-! ## Key skips -/

theorem keyAt?_of_toNat_eq {key : Keypad} {b : Byte} {k : Fin 16} (h : b.toNat = k.val) :
    keyAt? key b = some key[k.val] := by
  rw [keyAt?_some (h ▸ k.isLt)]
  simp only [h]

theorem exec_skp_of_key (g : Nibble) {k : Fin 16} (h : (s.readV x).toNat = k.val) :
    exec (.skp x g) s = .next (s.skipIf s.key[k.val]) := by
  simp only [exec, execSkp, keyAt?_of_toNat_eq h]

theorem exec_sknp_of_key (g : Nibble) {k : Fin 16} (h : (s.readV x).toNat = k.val) :
    exec (.sknp x g) s = .next (s.skipIf !s.key[k.val]) := by
  simp only [exec, execSknp, keyAt?_of_toNat_eq h]

theorem exec_skp_out_of_range (g : Nibble) (h : 15 < (s.readV x).toNat) :
    exec (.skp x g) s = .next (s.faultIn .keyRange (.skp x g)) := by
  simp only [exec, execSkp, keyAt?_none h]

theorem exec_sknp_out_of_range (g : Nibble) (h : 15 < (s.readV x).toNat) :
    exec (.sknp x g) s = .next (s.faultIn .keyRange (.sknp x g)) := by
  simp only [exec, execSknp, keyAt?_none h]

/-- Settles O36: within the keypad each is `skipIf` on the key or on its negation; past it each is the fault. -/
theorem keySkipsTestTheKeyOrFault : Obligations.KeySkipsTestTheKeyOrFault := by
  refine fun x g s => ⟨fun k hk => ⟨?_, ?_⟩, fun hrange => ⟨?_, ?_⟩⟩
  · exact setsPc_of_exec_skipIf (exec_skp_of_key g hk)
  · rw [← ite_not]
    simpa using setsPc_of_exec_skipIf (exec_sknp_of_key g hk)
  · exact raisesFault_of_exec (exec_skp_out_of_range g hrange)
  · exact raisesFault_of_exec (exec_sknp_out_of_range g hrange)

/-! ## Key wait -/

/-- The converse of `firstPressed_some`. -/
theorem firstPressed_of_least {key : Keypad} {k : Fin 16} (hk : key[k.val] = true)
    (hlow : ∀ j : Fin 16, j < k → key[j.val] = false) : firstPressed key = some k :=
  Fin.find?_eq_find?_finRange.symm.trans (Fin.find?_eq_some_iff.2 ⟨hk, hlow⟩)

theorem exec_ldVxK_of_least (x : Reg) {k : Fin 16} (hk : s.key[k.val] = true)
    (hlow : ∀ j : Fin 16, j < k → s.key[j.val] = false) :
    exec (.ldVxK x) s = .next (s.writeV x (BitVec.ofNat 8 k.val)) := by
  simp only [exec, execLdVxK, firstPressed_of_least hk hlow]

theorem exec_ldVxK_of_no_key (x : Reg) (h : ∀ k : Fin 16, s.key[k.val] = false) :
    exec (.ldVxK x) s = .next s.rewindPc := by
  simp only [exec, execLdVxK, firstPressed_none.2 h]

theorem rewindPc_toNat (s : State) : s.rewindPc.pc.toNat = (s.pc.toNat + 65534) % 65536 := by
  rw [rewindPc_pc, instrBytes]
  bv_omega

/-- Settles O37: the search finds the least pressed key, and with none it leaves the rewind. -/
theorem keyWaitTakesTheLeastKeyOrRewinds : Obligations.KeyWaitTakesTheLeastKeyOrRewinds :=
  fun x s => ⟨fun _ hk hlow => setsRegister_of_exec (exec_ldVxK_of_least x hk hlow),
    fun hnone => ⟨s.rewindPc, exec_ldVxK_of_no_key x hnone, rfl, rewindPc_toNat s⟩⟩

/-- The rewind undoes the fetch's advance, modulo 65536. -/
theorem rewindPc_advancePc (s : State) : s.advancePc.rewindPc = s :=
  congrArg s.setPc (BitVec.add_sub_cancel s.pc instrBytes)

/-- Settles O38: the key wait undoes the advance of its own fetch, so only the cycle's end is left. -/
theorem keyWaitWithNoKeyIsAnIdleCycle : Obligations.KeyWaitWithNoKeyIsAnIdleCycle := by
  rintro x s ⟨hrun, hcycles, hpc⟩ hword hnone
  have hexec : exec (decode s.fetchWord) s.advancePc = .next s := by
    rw [hword, exec_ldVxK_of_no_key (s := s.advancePc) x hnone, rewindPc_advancePc]
  rw [step_eq_cycle hrun hcycles, cycle_of_exec hpc hexec, endCycle_running _ _ hrun]

/-! ## Timer access -/

/-- Settles O39: one `writeV`, one `setDt` and one `setSt`. -/
theorem timerInstructionsMoveOneByte : Obligations.TimerInstructionsMoveOneByte :=
  fun x s => ⟨setsRegister_of_exec rfl, ⟨s.setDt (s.readV x), rfl, rfl, rfl⟩,
    ⟨s.setSt (s.readV x), rfl, rfl, rfl⟩⟩

end Sys2Proof.Machine
end

section
/-! SUPPORT. The index and memory instructions (44_index_memory.md R140 to R146). -/

namespace Sys2Proof.Machine

variable {s t u : State} {i : Instr} {x r : Reg}

/-! ## The writers of I alone -/

theorem setsIndex_of_exec {a : Word} (h : exec i s = .next (s.setI a)) : SetsIndex i s a.toNat :=
  ⟨_, h, rfl, rfl⟩

/-- The largest glyph address is 0x050 + 5 * 255, so no value of the register wraps it (D21). -/
theorem glyphAddress_toNat (b : Byte) : (glyphAddress b).toNat = 0x050 + 5 * b.toNat := by
  have := b.isLt
  rw [glyphAddress, fontBase, BitVec.toNat_ofNat]
  omega

/-- Settles O40: each of the three is one `setI`. -/
theorem indexInstructionsSetI : Obligations.IndexInstructionsSetI := by
  intro x nnn s
  rw [← addressWord_toNat, ← addIndex_toNat, ← glyphAddress_toNat]
  exact ⟨setsIndex_of_exec rfl, setsIndex_of_exec rfl, setsIndex_of_exec rfl⟩

/-! ## The decimal store -/

/-- Three writes at EA(0), EA(1), EA(2) leave every other byte, whatever the memory's form. -/
theorem readByte_of_exec_ldB_other {a : Addr} (h : exec (.ldB x) s = .next t) (ha : ∀ k, k < 3 → a ≠ s.ea k) :
    t.readByte a = s.readByte a := by
  cases h
  rw [readByte_writeByte_other _ _ (ha 2 (by decide)), readByte_writeByte_other _ _ (ha 1 (by decide)),
    readByte_writeByte_other _ _ (ha 0 (by decide))]

/-- Settles O41: what the store leaves behind in canonical memory are the three digits. -/
theorem decimalStoreWritesThreeDigits : Obligations.DecimalStoreWritesThreeDigits := by
  refine fun x s => ⟨_, rfl, rfl, fun a ha => readByte_of_exec_ldB_other rfl ha, fun hm => ?_⟩
  have hs := stores_of_exec_ldB (x := x) hm rfl
  rw [hs.stored 0 _ rfl, hs.stored 1 _ rfl, hs.stored 2 _ rfl]
  exact ⟨hundreds_toNat _, tens_toNat _, ones_toNat _⟩

/-! ## The post-increment -/

theorem bumpI_i_of_quirk (hq : s.params.qMemInc = true) (n : Nat) :
    (s.bumpI n).i.toNat = (s.i.toNat + n) % 4096 := by
  rw [bumpI_i, if_pos hq, addIndex_toNat]

theorem bumpI_i_of_no_quirk (hq : s.params.qMemInc = false) (n : Nat) : (s.bumpI n).i = s.i := by
  rw [bumpI_i, if_neg (Bool.not_eq_true _ ▸ hq)]

/-! ## The bulk transfers -/

theorem regOf_self (r : Reg) : regOf r.val = r := Fin.ext (regOf_val r.isLt)

theorem storeRegs_i (s : State) (n : Nat) : (s.storeRegs n).i = s.i := by rw [storeRegs_eq]

theorem storeRegs_params (s : State) (n : Nat) : (s.storeRegs n).params = s.params := by rw [storeRegs_eq]

theorem loadRegs_i (s : State) (n : Nat) : (s.loadRegs n).i = s.i := by rw [loadRegs_eq]

theorem loadRegs_params (s : State) (n : Nat) : (s.loadRegs n).params = s.params := by rw [loadRegs_eq]

/-- What a bulk store stored is read back at EA(r) of the I before the store (R144). -/
theorem readByte_of_exec_store (hm : s.mem.wf) (h : exec (.store x) s = .next t) (hr : r ≤ x) :
    t.readByte (s.ea r.val) = s.readV r := by
  cases h
  rw [bumpI_readByte, storeRegs_read hm (by omega) (Nat.lt_succ_of_le hr), regOf_self]

/-- Settles O42: the loop of stores reads I as before the instruction; the post-increment comes after it. -/
theorem bulkStoreWritesTheRegisters : Obligations.BulkStoreWritesTheRegisters := by
  refine fun x s => ⟨_, rfl, ?frame, fun hq => ?_, fun hq => ?_, fun a ha => ?_,
    fun hm r hr => readByte_of_exec_store hm rfl hr⟩
  case frame => rw [bumpI_eq, storeRegs_eq]
  · rw [bumpI_i_of_quirk (by rwa [storeRegs_params]), storeRegs_i, Nat.add_assoc]
  · rw [bumpI_i_of_no_quirk (by rwa [storeRegs_params]), storeRegs_i]
  · rw [bumpI_readByte, storeRegs_read_other s fun k hk => ha k (Nat.le_of_lt_succ hk)]

/-- What a bulk load leaves in each register (R145). -/
theorem readV_of_exec_load (h : exec (.load x) s = .next t) (r : Reg) :
    t.readV r = if r ≤ x then s.readByte (s.ea r.val) else s.readV r := by
  cases h
  rw [bumpI_readV, loadRegs_readV s x.isLt]
  simp only [Nat.lt_succ_iff, Fin.le_def]

/-- Settles O43: the loop of loads changes registers alone; the post-increment comes after it. -/
theorem bulkLoadReadsTheRegisters : Obligations.BulkLoadReadsTheRegisters := by
  refine fun x s => ⟨_, rfl, ?frame, fun hq => ?_, fun hq => ?_, fun r hr => ?_, fun r hr => ?_⟩
  case frame => rw [bumpI_eq, loadRegs_eq]
  · rw [bumpI_i_of_quirk (by rwa [loadRegs_params]), loadRegs_i, Nat.add_assoc]
  · rw [bumpI_i_of_no_quirk (by rwa [loadRegs_params]), loadRegs_i]
  · rw [readV_of_exec_load rfl, if_pos hr]
  · rw [readV_of_exec_load rfl, if_neg (not_le.2 hr)]

theorem ea_eq_of_i_eq (h : u.i = s.i) (k : Nat) : u.ea k = s.ea k := by rw [State.ea, State.ea, h]

/-- Settles O44: the load reads the addresses of the store, since I is the same, and there the stored bytes. -/
theorem storeThenLoadBringsTheRegistersBack : Obligations.StoreThenLoadBringsTheRegistersBack := by
  refine fun x s t u hm hstore hmem hi => ⟨_, rfl, fun r hr => ?_⟩
  calc _ = u.readByte (u.ea r.val) := by rw [readV_of_exec_load rfl, if_pos hr]
    _ = t.readByte (s.ea r.val) := by rw [ea_eq_of_i_eq hi, State.readByte, State.readByte, hmem]
    _ = s.readV r := readByte_of_exec_store hm hstore hr

end Sys2Proof.Machine
end

section
/-! SUPPORT. Faults, the machine that has stopped, the tick and the frame (60_exceptions.md R150 to R165). -/

namespace Sys2Proof.Machine

variable {s t u : State} {i : Instr}

/-! ## The four faults of the execute phase -/

/-- No kind of effect but the fault writes STATUS. -/
theorem Effect.writes_status (he : Effect s i t) (h : t.status ≠ s.status) :
    ∃ c, s.faultsIn i c ∧ t = s.faultIn c i := by
  cases he with
  | fault c hc => exact ⟨c, hc, rfl⟩
  | _ => exact absurd rfl h

/-- Settles O52: what each cause was checked against is `State.faultsIn`, and the record is `State.faultIn`'s. -/
theorem eachFaultHasItsInstructions : Obligations.EachFaultHasItsInstructions := by
  intro i s t h hst
  obtain ⟨c, hc, rfl⟩ := (exec_effect h).writes_status hst
  cases c with
  | fetchRange => exact hc.elim
  | stackOverflow =>
    obtain ⟨hfull, hcall⟩ := hc
    exact .inl ⟨hcall, hfull, rfl⟩
  | stackUnderflow =>
    obtain ⟨hempty, hret⟩ := hc
    exact .inr (.inl ⟨hret, hempty, rfl⟩)
  | keyRange => exact .inr (.inr (.inl ⟨hc, rfl⟩))
  | illegalInstruction =>
    obtain ⟨hstrict, hnop⟩ := hc
    exact .inr (.inr (.inr ⟨hnop, hstrict, rfl⟩))

/-! ## What a cycle of a running machine can do -/

/-- The fetch's fault and the instruction's are one write of STATUS over the state before the cycle, the advance of
PC being undone; a cycle without a fault is the instruction and the cycle's end (R55, R152). -/
theorem cycle_faults_or_runs (hr : s.status = .running) (h : s.cycle = .next t) :
    (∃ c o, t = s.raiseFault c s.pc o) ∨
    (t.status = .running ∧ ∃ v, exec (decode s.fetchWord) s.advancePc = .next v ∧
      t = { v with opcode := s.fetchWord, cyclesLeft := v.cyclesLeft - 1 }) := by
  rcases cycle_cases s h with ⟨-, rfl⟩ | ⟨-, v, hv, rfl⟩
  · exact .inl ⟨_, _, rfl⟩
  · rcases (exec_effect hv).running_or_fault hr with hrun | ⟨c, -, rfl⟩
    · exact .inr ⟨(endCycle_status v _).trans hrun, v, hv, endCycle_running v _ hrun⟩
    · refine .inl ⟨c, s.fetchWord, ?_⟩
      rw [endCycle_stopped _ _ (by simp), faultIn_advancePc]

/-- Settles O11: a tick goes on running, and so does a cycle without a fault. -/
theorem faultsArePrecise : Obligations.FaultsArePrecise := by
  intro s t hr h hstop
  rcases step_cases s h with ⟨hns, -⟩ | ⟨-, -, rfl⟩ | ⟨-, -, hcycle⟩
  · exact absurd hr hns
  · exact absurd hr hstop
  · rcases cycle_faults_or_runs hr hcycle with ⟨c, o, rfl⟩ | ⟨hrun, -⟩
    · exact ⟨rfl, c, o, rfl⟩
    · exact absurd hrun hstop

/-! ## The machine that has stopped -/

theorem step_stopped (h : s.status ≠ .running) : step s = .next s := by
  unfold step
  split
  · exact absurd ‹_› h
  · rfl
  · rfl

theorem run_stopped (h : s.status ≠ .running) (n : Nat) : Host.Core.run Sys2Proof.core n s = .next s := by
  induction n with
  | zero => rfl
  | succ n ih => rw [run_succ_of_step s n (step_stopped h), ih]

/-- Settles O10, by induction on the number of steps. -/
theorem stoppedMachineNeverMoves : Obligations.StoppedMachineNeverMoves := fun _ => run_stopped

/-! ## The tick -/

theorem step_eq_tick (hr : s.status = .running) (hc : s.cyclesLeft = 0) : step s = .next s.tick := by
  simp only [step, hr, hc]

theorem tick_tone_iff (s : State) : s.tick.tone = true ↔ 0 < s.st.toNat := by
  rw [tick_tone, decide_eq_true_iff]

theorem toNat_pos_iff (b : Byte) : 0 < b.toNat ↔ b ≠ 0 :=
  Nat.pos_iff_ne_zero.trans (not_congr (BitVec.toNat_inj (y := 0)))

theorem countDown_of_zero {b : Byte} (h : b = 0) : countDown b = 0 := by
  subst h
  rfl

theorem countDown_toNat_succ {b : Byte} (h : b ≠ 0) : (countDown b).toNat + 1 = b.toNat := by
  rw [countDown_toNat]
  exact Nat.sub_add_cancel ((toNat_pos_iff b).2 h)

theorem nextKeys_of_supplied {k : Keypad} {rest : List Keypad} (h : s.keysAhead = k :: rest) : s.nextKeys = k := by
  rw [State.nextKeys, h, List.headD_cons]

theorem nextKeys_of_none_supplied (h : s.keysAhead = []) : s.nextKeys = Config.keys s.tickCount := by
  rw [State.nextKeys, h, List.headD_nil]

/-- Settles O13: the step at the end of a frame is `State.tick`, read field by field. -/
theorem tickDoesWhatItSays : Obligations.TickDoesWhatItSays := by
  intro s hr hc
  refine ⟨s.tick, step_eq_tick hr hc, rfl, (tick_tone_iff s).trans (toNat_pos_iff s.st), countDown_of_zero,
    countDown_toNat_succ, countDown_of_zero, countDown_toNat_succ, fun k rest h => ?_, fun h => ?_⟩
  · exact ⟨nextKeys_of_supplied h, congrArg List.tail h⟩
  · exact ⟨nextKeys_of_none_supplied h, congrArg List.tail h⟩

/-! ## Several ticks -/

theorem countDown_iterate_toNat (n : Nat) (b : Byte) : (countDown^[n] b).toNat = b.toNat - n := by
  induction n with
  | zero => rfl
  | succ n ih => rw [Function.iterate_succ_apply', countDown_toNat, ih, Nat.sub_sub]

theorem tick_iterate_dt (n : Nat) (s : State) : (State.tick^[n] s).dt = countDown^[n] s.dt :=
  (show Function.Semiconj State.dt State.tick countDown from tick_dt).iterate_right n s

theorem tick_iterate_st (n : Nat) (s : State) : (State.tick^[n] s).st = countDown^[n] s.st :=
  (show Function.Semiconj State.st State.tick countDown from tick_st).iterate_right n s

/-- Settles O14: each tick counts both timers down, and the tone of tick n + 1 is sampled from what n ticks have left
of ST. -/
theorem timersRunDownToZero : Obligations.TimersRunDownToZero := by
  intro n s _
  have hst : (State.tick^[n] s).st.toNat = s.st.toNat - n := by rw [tick_iterate_st, countDown_iterate_toNat]
  refine ⟨by rw [tick_iterate_dt, countDown_iterate_toNat], hst, ?_⟩
  rw [Function.iterate_succ_apply', tick_tone_iff, hst]
  exact Nat.sub_pos_iff_lt

/-! ## The frame -/

/-- From s to t, n cycles of one frame were used and the host's side has not moved (R164). -/
structure UsesCycles (n : Nat) (s t : State) : Prop where
  cyclesLeft : t.cyclesLeft + n = s.cyclesLeft
  tickCount : t.tickCount = s.tickCount
  key : t.key = s.key
  tone : t.tone = s.tone
  display : t.display = s.display

theorem UsesCycles.refl (s : State) : UsesCycles 0 s s := ⟨rfl, rfl, rfl, rfl, rfl⟩

theorem UsesCycles.trans {m n : Nat} (h : UsesCycles m s t) (h' : UsesCycles n t u) : UsesCycles (n + m) s u where
  cyclesLeft := by rw [← h.cyclesLeft, ← h'.cyclesLeft, Nat.add_assoc]
  tickCount := h'.tickCount.trans h.tickCount
  key := h'.key.trans h.key
  tone := h'.tone.trans h.tone
  display := h'.display.trans h.display

/-- No instruction moves the host's side, and the end of a running cycle counts one cycle of the frame. -/
theorem usesCycles_one_of_step (hr : s.status = .running) (hc : s.cyclesLeft ≠ 0) (h : step s = .next t)
    (ht : t.status = .running) : UsesCycles 1 s t := by
  rcases cycle_faults_or_runs hr ((step_eq_cycle hr hc).symm.trans h) with ⟨c, o, rfl⟩ | ⟨-, v, hv, rfl⟩
  · cases ht
  · obtain ⟨hkey, htone, -, -, hcycles, hticks, -, hdisplay⟩ := (exec_effect hv).hostSide
    refine ⟨?_, hticks, hkey, htone, hdisplay⟩
    rw [hcycles]
    exact Nat.sub_add_cancel (Nat.pos_iff_ne_zero.2 hc)

/-- A run of n + 1 steps that ends running is a step to a running machine, then a run of n (R154). -/
theorem run_succ_running {n : Nat} (h : Host.Core.run Sys2Proof.core (n + 1) s = .next t)
    (ht : t.status = .running) :
    ∃ u, step s = .next u ∧ u.status = .running ∧ Host.Core.run Sys2Proof.core n u = .next t := by
  obtain ⟨u, hu⟩ := step_answers s
  rw [run_succ_of_step s n hu] at h
  refine ⟨u, hu, ?_, h⟩
  by_contra hstop
  obtain rfl : u = t := Host.Outcome.next.inj ((run_stopped hstop n).symm.trans h)
  exact hstop ht

theorem usesCycles_of_run {n : Nat} (hr : s.status = .running) (hn : n ≤ s.cyclesLeft)
    (h : Host.Core.run Sys2Proof.core n s = .next t) (ht : t.status = .running) : UsesCycles n s t := by
  induction n generalizing s with
  | zero =>
    cases h
    exact .refl _
  | succ n ih =>
    obtain ⟨u, hstep, hu, hrun⟩ := run_succ_running h ht
    have hone : UsesCycles 1 s u := usesCycles_one_of_step hr (Nat.ne_zero_of_lt hn) hstep hu
    have hcycles := hone.cyclesLeft
    exact hone.trans (ih hu (by omega) hrun)

/-- Settles O15, by induction on the number of steps; once all cycles are used the next step is the tick. -/
theorem frameIsItsCyclesThenOneTick : Obligations.FrameIsItsCyclesThenOneTick := by
  intro s t n hr hn h ht
  obtain ⟨hcycles, hticks, hkey, htone, hdisplay⟩ := usesCycles_of_run hr hn h ht
  exact ⟨hcycles, hticks, hkey, htone, hdisplay, fun hall => ⟨step_eq_tick ht (by omega), tick_cyclesLeft t⟩⟩

end Sys2Proof.Machine
end

section
/-! SUPPORT. Reset with a ROM and configured glyphs, the ROM that is too long, and the jump to itself that ends a run
(70_reset_and_hazards.md R180 to R186). -/

namespace Sys2Proof.Machine

variable {s t : State} {rom : List Byte}

/-! ## Reset with a ROM -/

section

variable (p : Params) (glyphs : Vector Byte 75) (rand : List Byte) (keys : List Keypad)

/-- Reset with a ROM that fits differs from `State.reset` in the supplied fields and in memory alone (R180, R183). -/
theorem resetWith_of_fits (hrom : rom.length ≤ programSpace) :
    State.resetWith p glyphs rom rand keys =
      { State.reset with
        params := p, cyclesLeft := p.ipt, randAhead := rand, keysAhead := keys
        mem := (Memory.writeList [] fontBase (fontOf glyphs)).writeList programOrigin rom } :=
  if_neg (Nat.not_lt.2 hrom)

/-- Reset with a ROM that is too long loads what an empty ROM loads, and stops (R184). -/
theorem resetWith_of_too_long (hrom : programSpace < rom.length) :
    State.resetWith p glyphs rom rand keys =
      { State.resetWith p glyphs [] rand keys with status := .loadError } :=
  if_pos hrom

/-- Memory after reset, as it was written: the ROM over the configured font table over the memory of `State.reset`. -/
theorem resetWith_readByte (hrom : rom.length ≤ programSpace) (a : Addr) :
    (State.resetWith p glyphs rom rand keys).readByte a =
      if programOrigin ≤ a.toNat ∧ a.toNat < programOrigin + rom.length then rom.getD (a.toNat - programOrigin) 0
      else if fontBase ≤ a.toNat ∧ a.toNat < fontBase + 80 then (fontOf glyphs).getD (a.toNat - fontBase) 0
      else State.reset.readByte a := by
  have hfits : programOrigin + rom.length ≤ 4096 := Nat.add_le_add_left hrom programOrigin
  have hfont : fontBase + (fontOf glyphs).length ≤ 4096 := by rw [length_fontOf]; decide
  rw [resetWith_of_fits p glyphs rand keys hrom, State.readByte,
    Memory.read_writeList (Memory.wf_writeList Memory.wf_nil _ _) _ _ hfits,
    Memory.read_writeList Memory.wf_nil _ _ hfont, length_fontOf]
  rfl

/-- From 0x200 on memory is the ROM, then zero (R183). -/
theorem resetWith_readByte_rom (hrom : rom.length ≤ programSpace) {a : Addr} (ha : 0x200 ≤ a.toNat) :
    (State.resetWith p glyphs rom rand keys).readByte a = rom.getD (a.toNat - 0x200) 0 := by
  rw [resetWith_readByte p glyphs rand keys hrom]
  unfold programOrigin fontBase
  by_cases hend : a.toNat < 0x200 + rom.length
  · rw [if_pos ⟨ha, hend⟩]
  · rw [if_neg (by omega), if_neg (by omega), reset_readByte_zero (by omega), List.getD_eq_default _ _ (by omega)]

/-- At 0x050 to 0x09F stands the font table (R31, R32). -/
theorem resetWith_readByte_font (hrom : rom.length ≤ programSpace) {k : Nat} (hk : k < 80) :
    (State.resetWith p glyphs rom rand keys).readByte (BitVec.ofNat 12 (0x050 + k)) = (fontOf glyphs).getD k 0 := by
  have ha : (BitVec.ofNat 12 (0x050 + k)).toNat = 0x050 + k := by rw [BitVec.toNat_ofNat]; omega
  rw [resetWith_readByte p glyphs rand keys hrom, ha]
  unfold programOrigin fontBase
  rw [if_neg (by omega), if_pos (by omega), Nat.add_sub_cancel_left]

/-- Below the font table, and between it and the ROM, memory is zero (R31). -/
theorem resetWith_readByte_zero (hrom : rom.length ≤ programSpace) {a : Addr}
    (ha : a.toNat < 0x050 ∨ 0x0A0 ≤ a.toNat ∧ a.toNat < 0x200) :
    (State.resetWith p glyphs rom rand keys).readByte a = 0 := by
  rw [resetWith_readByte p glyphs rand keys hrom]
  unfold programOrigin fontBase
  rw [if_neg (by omega), if_neg (by omega), reset_readByte_zero (by omega)]

/-- Glyph 0 is the same under every configuration (R32, D30). -/
theorem fontOf_getD_glyphZero {k : Nat} (hk : k < 5) : (fontOf glyphs).getD k 0 = glyphZero.getD k 0 :=
  List.getD_append _ _ _ _ hk

/-- The configured bytes follow the five of glyph 0 (R32, D30). -/
theorem fontOf_getD_configured (k : Fin 75) : (fontOf glyphs).getD (5 + k.val) 0 = glyphs[k.val] := by
  rw [fontOf, List.getD_append_right _ _ _ _ (Nat.le_add_right 5 k.val)]
  simp [glyphZero]

end

/-- Settles O17: the five places the statement tells apart are those of the memory map, and the other fields are as
`resetWith_of_fits` gives them. -/
theorem romIsLoadedVerbatim : Obligations.RomIsLoadedVerbatim := by
  intro p glyphs rom rand keys hrom
  refine ⟨_, rfl, ?_, ?_, fun k => ?_, fun a => ⟨fun ha => ?_, fun hlo hhi => ?_, fun ha => ?_⟩⟩
  · rw [resetWith_of_fits p glyphs rand keys hrom]
  · have hglyph (k : Nat) (hk : k ∈ List.range 5) :
        (State.resetWith p glyphs rom rand keys).readByte (BitVec.ofNat 12 (0x050 + k)) = glyphZero.getD k 0 :=
      have hk5 : k < 5 := List.mem_range.1 hk
      (resetWith_readByte_font p glyphs rand keys hrom (by omega)).trans (fontOf_getD_glyphZero glyphs hk5)
    exact List.map_congr_left hglyph
  · rw [show 0x055 + k.val = 0x050 + (5 + k.val) from Nat.add_assoc 0x050 5 k.val,
      resetWith_readByte_font p glyphs rand keys hrom (by omega), fontOf_getD_configured]
  · exact resetWith_readByte_zero p glyphs rand keys hrom (.inl ha)
  · exact resetWith_readByte_zero p glyphs rand keys hrom (.inr ⟨hlo, hhi⟩)
  · exact resetWith_readByte_rom p glyphs rand keys hrom ha

/-- Settles O18: the state is that of the empty ROM but for a status in which no step moves. -/
theorem romTooLongIsALoadError : Obligations.RomTooLongIsALoadError := by
  intro p glyphs rom rand keys hrom
  rw [resetWith_of_too_long p glyphs rand keys hrom]
  exact ⟨rfl, rfl, run_stopped (by simp)⟩

/-! ## The jump to itself -/

/-- A PC that fetches is a 12-bit address (R46). -/
theorem toNat_ofNat_pc (hpc : s.pc.toNat ≤ lastFetch) : (BitVec.ofNat 12 s.pc.toNat).toNat = s.pc.toNat := by
  unfold lastFetch at hpc
  rw [BitVec.toNat_ofNat]
  omega

theorem decode_fetchWord_of_isFinal (hf : s.isFinal) : decode s.fetchWord = .jp (BitVec.ofNat 12 s.pc.toNat) := by
  obtain ⟨-, hpc, hword⟩ := hf
  rw [decode_eq_iff rfl]
  apply BitVec.eq_of_toNat_eq
  rw [hword, encode, Laws.toNat_ofAddress (by decide) (BitVec.isLt _), toNat_ofNat_pc hpc]

/-- The jump of a final state undoes the advance of its own fetch (R82). -/
theorem exec_of_isFinal (hf : s.isFinal) : exec (decode s.fetchWord) s.advancePc = .next s := by
  have htarget : addressWord (BitVec.ofNat 12 s.pc.toNat) = s.pc := by
    obtain ⟨-, hpc, -⟩ := hf
    exact BitVec.eq_of_toNat_eq ((addressWord_toNat _).trans (toNat_ofNat_pc hpc))
  rw [decode_fetchWord_of_isFinal hf]
  exact congrArg (fun a => Host.Outcome.next (s.setPc a)) htarget

/-- A step of a final state is the tick, or the end of a cycle that did nothing else (R186). -/
theorem step_of_isFinal (hf : s.isFinal) (h : step s = .next t) :
    t = s.tick ∨ t = { s with opcode := s.fetchWord, cyclesLeft := s.cyclesLeft - 1 } := by
  have ⟨hrun, hpc, _⟩ := hf
  rcases step_cases s h with ⟨hstop, -⟩ | ⟨-, -, htick⟩ | ⟨-, -, hcycle⟩
  · exact absurd hrun hstop
  · exact .inl htick
  · rw [cycle_of_exec hpc (exec_of_isFinal hf), endCycle_running _ _ hrun] at hcycle
    exact .inr (Host.Outcome.next.inj hcycle).symm

/-- Settles O55: what a step of a final state may write (the timers, KEY, TONE, OPCODE and the host's side) is none of
what being final depends on. -/
theorem finalStatesStayFinal : Obligations.FinalStatesStayFinal := by
  intro s t hf h
  rcases step_of_isFinal hf h with rfl | rfl
  · exact ⟨hf, rfl, rfl, rfl, rfl, rfl, rfl, rfl, rfl⟩
  · exact ⟨hf, rfl, rfl, rfl, rfl, rfl, rfl, rfl, rfl⟩

end Sys2Proof.Machine
end
